-- ==== Sys2Proof/Word.lean ====
section
/-!
DEFINITION. The word types of the machine (spec/00_scope.md section 5: every value is unsigned, bit 0 is
the least significant bit).
-/

namespace Sys2Proof

/-- A memory byte, a general register, a timer, an immediate `nn` (R10, R16, R30, R53). -/
abbrev Byte := BitVec 8

/-- An instruction word, `I`, `pc`, a stack entry (R12, R13, R14, R50). -/
abbrev Word := BitVec 16

/-- A register index `x` or `y`, or the row count `n` of `DXYN`: a 4-bit field (R51, R53). -/
abbrev Nibble := BitVec 4

/-- The address field `nnn`: 12 bits (R51, R53). -/
abbrev Addr := BitVec 12

end Sys2Proof
end

