-- ==== Sys2Proof/Config.lean ====
section
/-!
DEFINITION. What is fixed for the machine (spec/00_scope.md R4, R5, R6), the events that drive it (R7), and
the free values: what the host and the environment choose under no law (R8, R23, R24) and what the spec
leaves unspecified (R41).
-/

namespace Sys2Proof

/-! ## Fixed parameters (R4) -/

/-- `MEM_SIZE`: bytes of memory (R4). -/
@[simp] abbrev memSize : Nat := 4096
/-- `PROG_BASE`: load address of the program image and reset value of `pc` (R4). -/
@[simp] abbrev progBase : Nat := 0x200
/-- `PROG_MAX`: largest program image, 4096 - 0x200 bytes (R4). -/
@[simp] abbrev progMax : Nat := 3584
/-- `FONT_LEN`: bytes of the font table (R4). -/
@[simp] abbrev fontLen : Nat := 80
/-- `STACK_DEPTH`: entries of the call stack (R4). -/
@[simp] abbrev stackDepth : Nat := 32
/-- `DISP_W`: display columns (R4). -/
@[simp] abbrev dispW : Nat := 64
/-- `DISP_H`: display rows (R4). -/
@[simp] abbrev dispH : Nat := 32

/-! ## Configuration (R5) and parameters (R6) -/

/-- The configuration, immutable after construction (R5); the defaults are those of the rule's table. -/
structure Config where
  /-- Base address of the font table. -/
  fontStart : Word := 0x050
  /-- `BNNN` adds `V[0]` (true) or `V[x]` (false). -/
  offJumpLegacy : Bool := false
  /-- `FX55`/`FX65` advance `I` (true) or leave it (false). -/
  regSaveLegacy : Bool := false
  /-- `FX1E` writes VF with the overflow (true) or leaves VF (false). -/
  indexAddCarry : Bool := false
  deriving DecidableEq, Repr, Inhabited

/-- The parameter the spec adds with an effect on execution (R6, D13): a constant of the build. The two
rates of R6 have none ("No rule of the model depends on it") and are left out (log 14). -/
structure Params where
  /-- `8XY6`/`8XYE` shift `V[y]` into `V[x]` (true) or `V[x]` in place (false). -/
  shiftSrcLegacy : Bool := false
  deriving DecidableEq, Repr, Inhabited

/-! ## The built-in font (R42) -/

/-- The built-in font table, glyphs 0 to F, five bytes each (R42). Host data: it reaches memory only by a
`loadFont` event, and no instruction depends on it. -/
def builtinFont : Vector Byte 80 := #v[
  0xF0, 0x90, 0x90, 0x90, 0xF0,   0x20, 0x60, 0x20, 0x20, 0x70,
  0xF0, 0x10, 0xF0, 0x80, 0xF0,   0xF0, 0x10, 0xF0, 0x10, 0xF0,
  0x90, 0x90, 0xF0, 0x10, 0x10,   0xF0, 0x80, 0xF0, 0x10, 0xF0,
  0xF0, 0x80, 0xF0, 0x90, 0xF0,   0xF0, 0x10, 0x20, 0x40, 0x40,
  0xF0, 0x90, 0xF0, 0x90, 0xF0,   0xF0, 0x90, 0xF0, 0x10, 0xF0,
  0xF0, 0x90, 0xF0, 0x90, 0x90,   0xE0, 0x90, 0xE0, 0x90, 0xE0,
  0xF0, 0x80, 0x80, 0x80, 0xF0,   0xE0, 0x90, 0x90, 0x90, 0xE0,
  0xF0, 0x80, 0xF0, 0x80, 0xF0,   0xF0, 0x80, 0xF0, 0x80, 0x80]

/-! ## Events (R7) -/

/-- The events that drive the hardware (R7): the core changes state on no other occasion. -/
inductive Event where
  /-- `Reset(config)` (R160). -/
  | reset (cfg : Config)
  /-- `load_program(bytes)`: the image goes to 0x200 (R41). -/
  | loadProgram (image : List Byte)
  /-- `load_font(bytes)`: exactly 80 bytes, to `cfg.font_start` (R41). -/
  | loadFont (font : Vector Byte 80)
  /-- A load whose byte source is unreadable: a failed load (R162). -/
  | loadUnreadable
  /-- `Step(keys, rnd)` (R65). -/
  | step (keys : Word) (rnd : Byte)
  /-- `Tick` (R145). -/
  | tick
  deriving DecidableEq, Repr, Inhabited

/-- A step strobe and a tick strobe in the same clock cycle behave as `Step` followed by `Tick` (R8, D25). -/
def Event.strobesTogether (keys : Word) (rnd : Byte) : List Event :=
  [.step keys rnd, .tick]

/-! ## Free values -/

/-- FREE VALUE (log 1). The `n`-th event, where the state's list of chosen events has none left: "a model
admits every interleaving" (R8), `keys` "a free input" (R23), `rnd` a draw under no law (R24). -/
opaque Config.hostEvent : Nat → Event

/-- FREE VALUE (log 5). The bytes from address 0 on that a failed load, the `n`-th event, leaves in memory:
"memory content is then unspecified" (R41). -/
opaque Config.failedLoadBytes : Nat → List Byte

end Sys2Proof
end

