-- ==== Sys2Proof/Machine/State.lean ====
section
/-!
DEFINITION. The state as plain data (spec/10_state.md), the reasons a step can stop, and the state after
reset (R27, R160).
-/

namespace Sys2Proof.Machine

/-! ## Memory (R20, R30, R36) -/

/-- Memory: the bytes that differ from what an unlisted address reads as, by strictly rising address. -/
abbrev Memory := List Host.Cell

/-- What an unlisted address reads as: 0x00, "0x00 if none since `Reset`" (R36; reset contents R20, R27). -/
def Memory.unlisted : Byte := 0x00

/-- The canonical form from address `lo` on: addresses strictly rising, inside memory, and no entry equal to
what an unlisted address reads as. -/
def Memory.wfFrom : Nat → List Host.Cell → Bool
  | _, [] => true
  | lo, (a, b) :: m => decide (lo ≤ a) && decide (a < memSize) && decide (b ≠ Memory.unlisted) && Memory.wfFrom (a + 1) m

/-- The canonical form of memory. -/
def Memory.wf (m : Memory) : Bool := Memory.wfFrom 0 m

/-! ## The frame buffer (R21) -/

/-- The frame buffer: 32 rows of 64 one-bit pixels, `fb[row][col]`; bit `col` of a row is its pixel in
column `col` ("`v[i]` on a bit vector is bit `i`", spec/00_scope.md section 5; log 10). -/
abbrev Frame := Vector (BitVec 64) 32

/-! ## The fault record (R18, R130) -/

/-- The seven machine faults (R130). -/
inductive Cause where
  /-- The fetch unit: `pc > 0x0FFE` (R131). -/
  | fetchRange
  /-- Execution of `Unknown(w)` (R132). -/
  | unknownOpcode
  /-- `2NNN` with a full stack (R133). -/
  | stackOverflow
  /-- `00EE` with an empty stack (R134). -/
  | stackUnderflow
  /-- `DXYN`, `FX33`, `FX55`, `FX65` past the end of memory (R135). -/
  | memRange
  /-- `EX9E`, `EXA1` with `V[x] > 0x0F` (R136). -/
  | keyRange
  /-- `FX29` with `V[x] > 0x0F` (R137). -/
  | digitRange
  deriving DecidableEq, Repr

/-- The fault record (R18). `cause` holds a code of R130, 0 while `valid` is false. -/
structure FaultRecord where
  valid : Bool
  cause : BitVec 3
  pc : Word
  info : Word
  deriving DecidableEq, Repr

/-- The record that holds no fault: all fields 0 (R18, R27). -/
def FaultRecord.none : FaultRecord := ⟨false, 0, 0, 0⟩

/-! ## The life cycle (R7, R41, R162) -/

/-- Where the machine stands between `Reset` and the next `Reset` (log 4). -/
inductive Phase where
  /-- After `Reset`, before the first `Step`: loads are allowed (R41). -/
  | loading
  /-- The first `Step` has been issued: no load is a transition any more (R41, D36). -/
  | running
  /-- A load failed: no transition but `Reset` (R162, U9). -/
  | loadFailed
  deriving DecidableEq, Repr

/-! ## State -/

/-- The machine (R10 to R21), with the configuration and the parameter that every transition takes (R5, R6;
log 3) and the model's own record of what the host has chosen (R7, R23, R24; logs 1, 2, 4). -/
structure State where
  /-- `V[0]` to `V[15]` (R10); `V[15]` is VF (R11). -/
  v : Vector Byte 16
  /-- `I`, the index register (R12). -/
  index : Word
  /-- `pc` (R13). -/
  pc : Word
  /-- `stack[0]` to `stack[31]` (R14). -/
  stack : Vector Word 32
  /-- `sp`, the number of return addresses on the stack, 0 to 32 (R15; log 9). -/
  sp : Fin 33
  /-- `DT`, the delay timer (R16). -/
  dt : Byte
  /-- `ST`, the sound timer (R16). -/
  st : Byte
  /-- `Mem[0x000]` to `Mem[0xFFF]` (R20). -/
  mem : Memory
  /-- The fault record (R18); the core is halted while `fault.valid`. -/
  fault : FaultRecord
  /-- `awaiting_key` (R19). -/
  awaitingKey : Bool
  /-- `key_reg` (R19). -/
  keyReg : Nibble
  /-- The frame buffer of the display surface (R21). -/
  fb : Frame
  /-- The configuration fixed by the last `Reset` (R5, R160; log 3). -/
  cfg : Config
  /-- The parameter of the build (R6; log 3). -/
  param : Params
  /-- The model's own: the life cycle (log 4). -/
  phase : Phase
  /-- The model's own: the keypad input presented with the current `Step` (R23; log 2). -/
  keys : Word
  /-- The model's own: the random byte presented with the current `Step` (R24; log 2). -/
  rnd : Byte
  /-- The model's own: the host's events chosen so far and not yet performed, oldest first (R7, R8; log 1). -/
  events : List Event
  /-- The model's own: how many events have been performed, the counter of the free values (log 1). -/
  drawn : Nat
  deriving DecidableEq, Repr

/-! ## Stops -/

/-- Why a step stops as stuck. The seven machine faults of R130 are none of these: a machine fault is a next
state with the fault record written (R142). -/
inductive Fault where
  /-- Raised by every event but `Reset` after a failed load: "a model gives a machine whose load failed no
  further transitions" (R162, U9). Safe: the host must not issue such an event. -/
  | stuckAfterFailedLoad
  deriving DecidableEq, Repr

/-- Why a step is refused. -/
inductive Refusal where
  /-- An instruction with no meaning yet, by its mnemonic; raised by `exec`'s arms alone. Safe. -/
  | notModelled (mnemonic : String)
  /-- Raised by a load after the first `Step`: "outside the contract and a model gives it no transition" (R41,
  D36, U16). Safe. -/
  | loadAfterFirstStep
  /-- Raised by `Reset` with an ill-formed configuration: "the model refuses any other configuration" (R5,
  D27, U16). Safe. -/
  | illFormedConfig
  deriving DecidableEq, Repr

/-! ## Reset (R27, R160) -/

/-- The state after `Reset(cfg)` on a build with parameter `param`: every field at the value of R27; the
model's own fields at the values of logs 1, 2 and 4. -/
def State.resetWith (cfg : Config) (param : Params) : State where
  v := Vector.replicate 16 0x00
  index := 0x0000
  pc := 0x0200
  stack := Vector.replicate 32 0x0000
  sp := 0
  dt := 0x00
  st := 0x00
  mem := []
  fault := FaultRecord.none
  awaitingKey := false
  keyReg := 0x0
  fb := Vector.replicate 32 0#64
  cfg := cfg
  param := param
  phase := .loading
  keys := 0x0000
  rnd := 0x00
  events := []
  drawn := 0

/-- The machine right after reset with the default configuration (R27, R160) and parameter (R6). -/
def State.reset : State := State.resetWith {} {}

end Sys2Proof.Machine
end

