-- ==== Sys2Proof/Machine/Ops.lean ====
section
/-!
DEFINITION. The named operations over memory, registers, stack and `pc`, and machine-fault entry
(spec/20_memory.md R32, R35, R36; spec/10_state.md R10, R13, R15; spec/60_exceptions.md R142).
-/

namespace Sys2Proof.Machine

/-! ## Memory -/

/-- The byte at address `a` (R32, R36). -/
def Memory.read : List Host.Cell → Nat → Byte
  | [], _ => Memory.unlisted
  | (a', b) :: m, a => if a = a' then b else Memory.read m a

/-- Put a byte at address `a` into a canonical list, keeping it canonical. -/
def Memory.put : List Host.Cell → Nat → Byte → List Host.Cell
  | [], a, b => if b = Memory.unlisted then [] else [(a, b)]
  | (a', b') :: m, a, b =>
    if a < a' then (if b = Memory.unlisted then (a', b') :: m else (a, b) :: (a', b') :: m)
    else if a = a' then (if b = Memory.unlisted then m else (a, b) :: m)
    else (a', b') :: Memory.put m a b

/-- Store a byte at address `a`; for `a > 0xFFF` memory is not accessed (R32). -/
def Memory.write (m : Memory) (a : Nat) (b : Byte) : Memory :=
  if a < memSize then Memory.put m a b else m

/-- The `n` bytes from address `a` on, in ascending address order (R35). -/
def Memory.readBlock (m : Memory) (a : Nat) : Nat → List Byte
  | 0 => []
  | n + 1 => Memory.read m a :: Memory.readBlock m (a + 1) n

/-- Store bytes from address `a` on, in ascending address order (R35). -/
def Memory.writeBlock (m : Memory) (a : Nat) : List Byte → Memory
  | [] => m
  | b :: bs => Memory.writeBlock (Memory.write m a b) (a + 1) bs

/-! ## General registers (R10) -/

/-- `V[r]` (R10). -/
def State.reg (s : State) (r : Nibble) : Byte := s.v[r.toNat]'(r.isLt)

/-- `V[r] <- b` (R10). -/
def State.setReg (s : State) (r : Nibble) (b : Byte) : State :=
  { s with v := s.v.set r.toNat b r.isLt }

/-! ## Program counter (R13, R66) -/

/-- `npc = pc + 2`, 16 bits (R65). -/
def State.npc (s : State) : Word := s.pc + 2

/-- `pc <- target` (R66). -/
def State.jumpTo (s : State) (target : Word) : State := { s with pc := target }

/-- `pc <- npc`: every instruction that is no jump, call, return or taken skip (R66). -/
def State.advance (s : State) : State := s.jumpTo s.npc

/-- `pc <- npc + 2` if the condition holds, else `pc <- npc` (R66). -/
def State.skipIf (s : State) (cond : Bool) : State :=
  s.jumpTo (if cond then s.npc + 2 else s.npc)

/-! ## Call stack (R14, R15) -/

/-- Push: write `stack[sp]`, then increment `sp`; `none` when the stack is full (R15). -/
def State.push (s : State) (a : Word) : Option State :=
  if h : s.sp.val < stackDepth then
    some { s with stack := s.stack.set s.sp.val a h, sp := ⟨s.sp.val + 1, Nat.succ_lt_succ h⟩ }
  else none

/-- Pop: decrement `sp`, then read `stack[sp]`; `none` when the stack is empty (R15). The popped entry keeps
its value in the array (R14). -/
def State.pop (s : State) : Option (Word × State) :=
  if h : 0 < s.sp.val then
    some (s.stack[s.sp.val - 1]'(Nat.sub_one_lt_of_le h (Nat.le_of_lt_succ s.sp.isLt)),
      { s with sp := ⟨s.sp.val - 1, Nat.lt_of_le_of_lt (Nat.sub_le _ _) s.sp.isLt⟩ })
  else none

/-! ## Machine faults (R130, R142, R143) -/

/-- The code of a machine fault (R130, D6). -/
def Cause.code : Cause → BitVec 3
  | .fetchRange => 1
  | .unknownOpcode => 2
  | .stackOverflow => 3
  | .stackUnderflow => 4
  | .memRange => 5
  | .keyRange => 6
  | .digitRange => 7

/-- Fault entry: the record is written and nothing else changes; `pc` keeps the address of the faulting
instruction, and the core is halted (R142). There is no return from a fault (R143): only `Reset` leaves the
halted state. -/
def State.raise (s : State) (c : Cause) (info : Word) : State :=
  { s with fault := ⟨true, c.code, s.pc, info⟩ }

/-- An instruction's effect `t` under a check made before any of it: if the check fails the fault is raised
in `s` and nothing of `t` happens (R142). -/
def State.guard (s : State) (ok : Bool) (c : Cause) (info : Word) (t : State) : State :=
  if ok then t else s.raise c info

end Sys2Proof.Machine
end

