-- ==== Sys2Proof/Machine/Flags.lean ====
section
/-!
DEFINITION. The flag computations (spec/10_state.md R11, spec/41_load_and_alu.md R92, R93). VF is the only
flag, and a flag value is 0x00 or 0x01.
-/

namespace Sys2Proof.Machine

/-- The index of VF (R11). -/
def vf : Nibble := 0xF

/-- A flag as the byte VF holds (R11). -/
def flagByte (f : Bool) : Byte := if f then 0x01 else 0x00

/-- Carry of `a + b`: 1 exactly when `a + b >= 256` (R92). -/
def carry (a b : Byte) : Bool := decide (256 ≤ a.toNat + b.toNat)

/-- The inverse of the borrow of `a - b`: 1 exactly when `a >= b` (R92). -/
def noBorrow (a b : Byte) : Bool := decide (b.toNat ≤ a.toNat)

/-- The bit a right shift by one shifts out, bit 0 (R88). -/
def shiftedOutRight (b : Byte) : Bool := b.getLsbD 0

/-- The bit a left shift by one shifts out, bit 7 (R90). -/
def shiftedOutLeft (b : Byte) : Bool := b.getLsbD 7

/-- Overflow of the 12-bit index addition: the sum is at least 4096 (R96). -/
def indexOverflow (i : Word) (b : Byte) : Bool := decide (4096 ≤ i.toNat + b.toNat)

/-- `V[15] <- flag` (R11). -/
def State.setFlag (s : State) (f : Bool) : State := s.setReg vf (flagByte f)

/-- A result and its flag: the result is written to `V[x]` first and the flag to VF last (R93). -/
def State.setResult (s : State) (x : Nibble) (result : Byte) (f : Bool) : State :=
  (s.setReg x result).setFlag f

end Sys2Proof.Machine
end

