-- ==== Sys2Proof/Machine/Operands.lean ====
section
/-!
DEFINITION. The operand forms (spec/30_encoding.md R53), the memory address generator
(spec/42_index_and_memory.md R101), and what an instruction computes from its operands.
-/

namespace Sys2Proof.Machine

/-! ## Immediates and registers -/

/-- `zext_16(nnn)` (R53). -/
def addrWord (nnn : Addr) : Word := nnn.setWidth 16

/-- `zext_16` of a register's value (R53). -/
def byteWord (b : Byte) : Word := b.setWidth 16

/-- The register of `BNNN`: `V[0]` in legacy mode, else the register named by `nnn[11:8]` (R77). -/
def State.offsetReg (s : State) (nnn : Addr) : Nibble :=
  if s.cfg.offJumpLegacy then 0x0 else nnn.extractLsb' 8 4

/-- The byte shifted by `8XY6`/`8XYE`: `V[y]` in legacy mode, else `V[x]` (R88, R90). -/
def State.shiftSource (s : State) (x y : Nibble) : Byte :=
  if s.param.shiftSrcLegacy then s.reg y else s.reg x

/-- `V[0]` to `V[x]` inclusive, ascending (R99). -/
def State.regsTo (s : State) (x : Nibble) : List Byte :=
  (List.range (x.toNat + 1)).map fun k => s.reg (BitVec.ofNat 4 k)

/-- `V[k] <- b` for successive bytes, from register number `k` on (R100). -/
def State.setRegsFrom (s : State) (k : Nat) : List Byte → State
  | [] => s
  | b :: bs => State.setRegsFrom (s.setReg (BitVec.ofNat 4 k) b) (k + 1) bs

/-! ## The memory address generator (R101) -/

/-- `EA(k) = I + k`, not reduced modulo 4096 (R101). -/
def State.ea (s : State) (k : Nat) : Nat := s.index.toNat + k

/-- The check before any access of `count` bytes at `I`: `I + count - 1 <= 0x0FFF`; `count = 0` makes no
access (R101). -/
def State.blockFits (s : State) (count : Nat) : Bool :=
  decide (count = 0) || decide (s.ea (count - 1) ≤ 0x0FFF)

/-- An effect `t` that accesses `count` bytes at `I`, behind that check; `fault.info` is the first address
outside memory (R101, R135). -/
def State.guardBlock (s : State) (count : Nat) (t : State) : State :=
  s.guard (s.blockFits count) .memRange 0x1000 t

/-- The `count` bytes at `I` (R101). -/
def State.loadBlock (s : State) (count : Nat) : List Byte :=
  Memory.readBlock s.mem (s.ea 0) count

/-- Store bytes at `I` (R101). -/
def State.storeBlock (s : State) (bs : List Byte) : State :=
  { s with mem := Memory.writeBlock s.mem (s.ea 0) bs }

/-! ## The index register (R12) -/

/-- `I <- w` (R12). -/
def State.setIndex (s : State) (w : Word) : State := { s with index := w }

/-- `(I + k) mod 4096`, the value index arithmetic stores in `I` (R12, R96). -/
def State.indexPlus (s : State) (k : Nat) : Word := BitVec.ofNat 16 ((s.index.toNat + k) % 4096)

/-- After a block transfer of `count` registers: `I` advances by `count` modulo 4096 in legacy mode, and
keeps its value otherwise (R99, R100). -/
def State.afterBlock (s : State) (count : Nat) : State :=
  if s.cfg.regSaveLegacy then s.setIndex (s.indexPlus count) else s

/-! ## Values -/

/-- The three decimal digits of a byte, hundreds first (R98). -/
def decimalDigits (b : Byte) : List Byte :=
  [BitVec.ofNat 8 (b.toNat / 100), BitVec.ofNat 8 (b.toNat / 10 % 10), BitVec.ofNat 8 (b.toNat % 10)]

/-- The glyph address of a digit: `cfg.font_start + 5 * d` (R97). -/
def State.glyphAddr (s : State) (d : Byte) : Word := s.cfg.fontStart + 5 * byteWord d

/-- A key number or a digit is at most 0x0F (R97, R113). -/
def isDigit (b : Byte) : Bool := decide (b.toNat ≤ 0x0F)

/-- `keys[k]` of this step's keypad input (R119). -/
def State.keyDown (s : State) (k : Byte) : Bool := s.keys.getLsbD k.toNat

end Sys2Proof.Machine
end

