-- ==== Sys2Proof/Machine/Alu.lean ====
section
/-!
DEFINITION. Register load, ALU and random instructions (spec/41_load_and_alu.md R80 to R93). Every one ends
with `pc <- npc` and raises no fault.
-/

namespace Sys2Proof.Machine

/-- `6XNN`, `V[x] <- nn` (R80). -/
def execLoadImm (x : Nibble) (nn : Byte) (s : State) : Host.Outcome State Fault Refusal :=
  .next (s.setReg x nn).advance

/-- `7XNN`, `V[x] <- (V[x] + nn) mod 256`, no flag (R81). -/
def execAddImm (x : Nibble) (nn : Byte) (s : State) : Host.Outcome State Fault Refusal :=
  .next (s.setReg x (s.reg x + nn)).advance

/-- `8XY0`, `V[x] <- V[y]` (R82). -/
def execMove (x y : Nibble) (s : State) : Host.Outcome State Fault Refusal :=
  .next (s.setReg x (s.reg y)).advance

/-- `8XY1`, OR, no flag (R83). -/
def execOrReg (x y : Nibble) (s : State) : Host.Outcome State Fault Refusal :=
  .next (s.setReg x (s.reg x ||| s.reg y)).advance

/-- `8XY2`, AND, no flag (R84). -/
def execAndReg (x y : Nibble) (s : State) : Host.Outcome State Fault Refusal :=
  .next (s.setReg x (s.reg x &&& s.reg y)).advance

/-- `8XY3`, XOR, no flag (R85). -/
def execXorReg (x y : Nibble) (s : State) : Host.Outcome State Fault Refusal :=
  .next (s.setReg x (s.reg x ^^^ s.reg y)).advance

/-- `8XY4`, add; VF = carry (R86). -/
def execAddReg (x y : Nibble) (s : State) : Host.Outcome State Fault Refusal :=
  .next (s.setResult x (s.reg x + s.reg y) (carry (s.reg x) (s.reg y))).advance

/-- `8XY5`, `V[x] - V[y]`; VF = not borrow (R87). -/
def execSub (x y : Nibble) (s : State) : Host.Outcome State Fault Refusal :=
  .next (s.setResult x (s.reg x - s.reg y) (noBorrow (s.reg x) (s.reg y))).advance

/-- `8XY6`, logical shift right by one; VF = bit 0 of the source (R88). -/
def execShiftRight (x y : Nibble) (s : State) : Host.Outcome State Fault Refusal :=
  .next (s.setResult x (s.shiftSource x y >>> 1) (shiftedOutRight (s.shiftSource x y))).advance

/-- `8XY7`, `V[y] - V[x]`; VF = not borrow (R89). -/
def execSubN (x y : Nibble) (s : State) : Host.Outcome State Fault Refusal :=
  .next (s.setResult x (s.reg y - s.reg x) (noBorrow (s.reg y) (s.reg x))).advance

/-- `8XYE`, shift left by one; VF = bit 7 of the source (R90). -/
def execShiftLeft (x y : Nibble) (s : State) : Host.Outcome State Fault Refusal :=
  .next (s.setResult x (s.shiftSource x y <<< 1) (shiftedOutLeft (s.shiftSource x y))).advance

/-- `CXNN`, `V[x] <- rnd AND nn` (R91). -/
def execRandom (x : Nibble) (nn : Byte) (s : State) : Host.Outcome State Fault Refusal :=
  .next (s.setReg x (s.rnd &&& nn)).advance

end Sys2Proof.Machine
end

