-- ==== Sys2Proof/Machine/ControlFlow.lean ====
section
/-!
DEFINITION. Control transfer (spec/40_fetch_and_control_flow.md R70 to R77).
-/

namespace Sys2Proof.Machine

/-- `00EE`, return (R70); an empty stack raises `StackUnderflow` (R134). -/
def execRet (s : State) : Host.Outcome State Fault Refusal :=
  match s.pop with
  | some (a, t) => .next (t.jumpTo a)
  | none => .next (s.raise .stackUnderflow 0x0000)

/-- `1NNN`, jump (R71). -/
def execJump (nnn : Addr) (s : State) : Host.Outcome State Fault Refusal :=
  .next (s.jumpTo (addrWord nnn))

/-- `2NNN`, call: push `npc`, jump (R72); a full stack raises `StackOverflow` (R133). -/
def execCall (nnn : Addr) (s : State) : Host.Outcome State Fault Refusal :=
  match s.push s.npc with
  | some t => .next (t.jumpTo (addrWord nnn))
  | none => .next (s.raise .stackOverflow 0x0020)

/-- `3XNN`, skip if `V[x] = nn` (R73). -/
def execSkipEqImm (x : Nibble) (nn : Byte) (s : State) : Host.Outcome State Fault Refusal :=
  .next (s.skipIf (s.reg x == nn))

/-- `4XNN`, skip if `V[x] != nn` (R74). -/
def execSkipNeImm (x : Nibble) (nn : Byte) (s : State) : Host.Outcome State Fault Refusal :=
  .next (s.skipIf (s.reg x != nn))

/-- `5XY0`, skip if `V[x] = V[y]` (R75). -/
def execSkipEqReg (x y : Nibble) (s : State) : Host.Outcome State Fault Refusal :=
  .next (s.skipIf (s.reg x == s.reg y))

/-- `9XY0`, skip if `V[x] != V[y]` (R76). -/
def execSkipNeReg (x y : Nibble) (s : State) : Host.Outcome State Fault Refusal :=
  .next (s.skipIf (s.reg x != s.reg y))

/-- `BNNN`, jump to `nnn + V[r]`, a 16-bit sum that is not reduced modulo 4096 (R77). -/
def execJumpOffset (nnn : Addr) (s : State) : Host.Outcome State Fault Refusal :=
  .next (s.jumpTo (addrWord nnn + byteWord (s.reg (s.offsetReg nnn))))

end Sys2Proof.Machine
end

