-- ==== Sys2Proof/Machine/Display.lean ====
section
/-!
DEFINITION. The display surface and the display instructions (spec/43_display.md R105 to R110).
-/

namespace Sys2Proof.Machine

/-! ## The display surface (R107 to R110) -/

/-- `fb[row][col]`; outside the 32 rows and 64 columns there is no pixel. -/
def Frame.pixel (fb : Frame) (row col : Nat) : Bool :=
  if h : row < 32 then fb[row].getLsbD col else false

/-- `fb[row][col] <- fb[row][col] XOR 1` (R109). -/
def Frame.flip (fb : Frame) (row col : Nat) : Frame :=
  if h : row < 32 then fb.set row (fb[row] ^^^ BitVec.twoPow 64 col) else fb

/-- `Display.clear()` (R108). -/
def Frame.cleared : Frame := Vector.replicate 32 0#64

/-- A 1 bit of a sprite at column `x + c`, row `y + r`, both wrapped: its pixel is inverted, and a pixel that
was lit is a collision (R109). -/
def drawPixel (x y r c : Nat) (acc : Frame × Bool) : Frame × Bool :=
  let px := (x + c) % dispW
  let py := (y + r) % dispH
  (Frame.flip acc.1 py px, acc.2 || Frame.pixel acc.1 py px)

/-- One row of a sprite: bit `7 - c` of its byte is the pixel in its column `c` (R109). -/
def drawRow (x y r : Nat) (row : Byte) (acc : Frame × Bool) : Frame × Bool :=
  (List.range 8).foldl (fun acc c => if row.getLsbD (7 - c) then drawPixel x y r c acc else acc) acc

/-- The rows of a sprite from row `r` on (R109). -/
def drawRows (x y : Nat) : Nat → List Byte → Frame × Bool → Frame × Bool
  | _, [], acc => acc
  | r, b :: bs, acc => drawRows x y (r + 1) bs (drawRow x y r b acc)

/-- `Display.draw_sprite(x, y, rows)`: the new frame buffer and `collided` (R109). -/
def drawSprite (fb : Frame) (x y : Byte) (rows : List Byte) : Frame × Bool :=
  drawRows x.toNat y.toNat 0 rows (fb, false)

/-- `snapshot()`: the whole frame buffer, for the host; it changes nothing (R110). -/
def State.snapshot (s : State) : Frame := s.fb

/-! ## Instructions -/

/-- `00E0`, clear the display (R105). -/
def execClearDisplay (s : State) : Host.Outcome State Fault Refusal :=
  .next { s with fb := Frame.cleared }.advance

/-- `DXYN`, draw the `n` bytes at `I` at `(V[x], V[y])`; VF = collision, written last (R106). -/
def execDraw (x y n : Nibble) (s : State) : Host.Outcome State Fault Refusal :=
  let answer := drawSprite s.fb (s.reg x) (s.reg y) (s.loadBlock n.toNat)
  .next (s.guardBlock n.toNat ({ s with fb := answer.1 }.setFlag answer.2).advance)

end Sys2Proof.Machine
end

