-- ==== Sys2Proof/Machine/IndexMemory.lean ====
section
/-!
DEFINITION. Index register and memory instructions (spec/42_index_and_memory.md R95 to R101).
-/

namespace Sys2Proof.Machine

/-- `ANNN`, `I <- nnn` (R95). -/
def execLoadIndex (nnn : Addr) (s : State) : Host.Outcome State Fault Refusal :=
  .next (s.setIndex (addrWord nnn)).advance

/-- `FX1E`, `I <- (I + V[x]) mod 4096`; in carry mode VF = overflow, written last (R96, R93). -/
def execAddIndex (x : Nibble) (s : State) : Host.Outcome State Fault Refusal :=
  let t := s.setIndex (s.indexPlus (s.reg x).toNat)
  .next (if s.cfg.indexAddCarry then t.setFlag (indexOverflow s.index (s.reg x)) else t).advance

/-- `FX29`, `I <- cfg.font_start + 5 * V[x]` (R97); a value above 0x0F raises `DigitRange` (R137). -/
def execFontAddr (x : Nibble) (s : State) : Host.Outcome State Fault Refusal :=
  .next (s.guard (isDigit (s.reg x)) .digitRange (byteWord (s.reg x))
    (s.setIndex (s.glyphAddr (s.reg x))).advance)

/-- `FX33`, the decimal digits of `V[x]` to `I`, `I+1`, `I+2` (R98). -/
def execBcd (x : Nibble) (s : State) : Host.Outcome State Fault Refusal :=
  .next (s.guardBlock 3 (s.storeBlock (decimalDigits (s.reg x))).advance)

/-- `FX55`, `V[0]` to `V[x]` to `I` .. `I + x`; in legacy mode `I` advances (R99). -/
def execSaveRegs (x : Nibble) (s : State) : Host.Outcome State Fault Refusal :=
  .next (s.guardBlock (x.toNat + 1) ((s.storeBlock (s.regsTo x)).afterBlock (x.toNat + 1)).advance)

/-- `FX65`, `V[0]` to `V[x]` from `I` .. `I + x`; in legacy mode `I` advances (R100). -/
def execLoadRegs (x : Nibble) (s : State) : Host.Outcome State Fault Refusal :=
  .next (s.guardBlock (x.toNat + 1)
    ((s.setRegsFrom 0 (s.loadBlock (x.toNat + 1))).afterBlock (x.toNat + 1)).advance)

end Sys2Proof.Machine
end

