-- ==== Sys2Proof/Machine/KeypadTimers.lean ====
section
/-!
DEFINITION. Keypad and timer instructions (spec/44_keypad_and_timers.md R113 to R118).
-/

namespace Sys2Proof.Machine

/-- `EX9E`, skip if key `V[x]` is pressed (R113); a value above 0x0F raises `KeyRange` (R136). -/
def execSkipKey (x : Nibble) (s : State) : Host.Outcome State Fault Refusal :=
  .next (s.guard (isDigit (s.reg x)) .keyRange (byteWord (s.reg x)) (s.skipIf (s.keyDown (s.reg x))))

/-- `EXA1`, skip if key `V[x]` is not pressed (R114); a value above 0x0F raises `KeyRange` (R136). -/
def execSkipNotKey (x : Nibble) (s : State) : Host.Outcome State Fault Refusal :=
  .next (s.guard (isDigit (s.reg x)) .keyRange (byteWord (s.reg x)) (s.skipIf (!s.keyDown (s.reg x))))

/-- `FX07`, `V[x] <- DT` (R116). -/
def execGetDelay (x : Nibble) (s : State) : Host.Outcome State Fault Refusal :=
  .next (s.setReg x s.dt).advance

/-- `FX0A`, enter the wait for a key: `awaiting_key <- 1`, `key_reg <- x`, `pc <- npc` (R115). -/
def execWaitKey (x : Nibble) (s : State) : Host.Outcome State Fault Refusal :=
  .next { s with awaitingKey := true, keyReg := x }.advance

/-- `FX15`, `DT <- V[x]` (R117). -/
def execSetDelay (x : Nibble) (s : State) : Host.Outcome State Fault Refusal :=
  .next { s with dt := s.reg x }.advance

/-- `FX18`, `ST <- V[x]` (R118). -/
def execSetSound (x : Nibble) (s : State) : Host.Outcome State Fault Refusal :=
  .next { s with st := s.reg x }.advance

end Sys2Proof.Machine
end

