-- ==== Sys2Proof/Syntax.lean ====
section
/-!
DEFINITION. The instructions: one constructor per row of spec/opcode_table.json, in the table's order, named
after the decoder's variants (spec/30_encoding.md R54), "each carrying only the operand fields its semantics
need". The variant `Unknown(w)` is no row of the table: it is `Decoded.unknown` of Decode.lean.
-/

namespace Sys2Proof

/-- The 34 assigned instructions (R54, R55). -/
inductive Instr where
  /-- `00E0` -/
  | clearDisplay
  /-- `00EE` -/
  | ret
  /-- `1NNN` -/
  | jump (nnn : Addr)
  /-- `2NNN` -/
  | call (nnn : Addr)
  /-- `3XNN` -/
  | skipEqImm (x : Nibble) (nn : Byte)
  /-- `4XNN` -/
  | skipNeImm (x : Nibble) (nn : Byte)
  /-- `5XY0` -/
  | skipEqReg (x y : Nibble)
  /-- `6XNN` -/
  | loadImm (x : Nibble) (nn : Byte)
  /-- `7XNN` -/
  | addImm (x : Nibble) (nn : Byte)
  /-- `8XY0` -/
  | move (x y : Nibble)
  /-- `8XY1` -/
  | orReg (x y : Nibble)
  /-- `8XY2` -/
  | andReg (x y : Nibble)
  /-- `8XY3` -/
  | xorReg (x y : Nibble)
  /-- `8XY4` -/
  | addReg (x y : Nibble)
  /-- `8XY5` -/
  | sub (x y : Nibble)
  /-- `8XY6` -/
  | shiftRight (x y : Nibble)
  /-- `8XY7` -/
  | subN (x y : Nibble)
  /-- `8XYE` -/
  | shiftLeft (x y : Nibble)
  /-- `9XY0` -/
  | skipNeReg (x y : Nibble)
  /-- `ANNN` -/
  | loadIndex (nnn : Addr)
  /-- `BNNN` -/
  | jumpOffset (nnn : Addr)
  /-- `CXNN` -/
  | random (x : Nibble) (nn : Byte)
  /-- `DXYN` -/
  | draw (x y n : Nibble)
  /-- `EX9E` -/
  | skipKey (x : Nibble)
  /-- `EXA1` -/
  | skipNotKey (x : Nibble)
  /-- `FX07` -/
  | getDelay (x : Nibble)
  /-- `FX0A` -/
  | waitKey (x : Nibble)
  /-- `FX15` -/
  | setDelay (x : Nibble)
  /-- `FX18` -/
  | setSound (x : Nibble)
  /-- `FX1E` -/
  | addIndex (x : Nibble)
  /-- `FX29` -/
  | fontAddr (x : Nibble)
  /-- `FX33` -/
  | bcd (x : Nibble)
  /-- `FX55` -/
  | saveRegs (x : Nibble)
  /-- `FX65` -/
  | loadRegs (x : Nibble)
  deriving DecidableEq, Repr

end Sys2Proof
end

