-- ==== Sys2Proof/Decode.lean ====
section
/-!
DEFINITION. The decoder (spec/30_encoding.md R51, R54), total on every 16-bit word and on every list of
bytes, and after it the encoder (R62) and the opcode map (R55).
-/

namespace Sys2Proof

/-! ## The fields of the word (R51) -/

/-- `n0 = w[15:12]` (R51). -/
def fieldMajor (w : Word) : Nibble := w.extractLsb' 12 4
/-- `x = w[11:8]` (R51). -/
def fieldX (w : Word) : Nibble := w.extractLsb' 8 4
/-- `y = w[7:4]` (R51). -/
def fieldY (w : Word) : Nibble := w.extractLsb' 4 4
/-- `n = w[3:0]` (R51). -/
def fieldN (w : Word) : Nibble := w.extractLsb' 0 4
/-- `nn = w[7:0]` (R51). -/
def fieldNN (w : Word) : Byte := w.extractLsb' 0 8
/-- `nnn = w[11:0]` (R51). -/
def fieldNNN (w : Word) : Addr := w.extractLsb' 0 12

/-! ## The decoder (R54) -/

/-- The output of the decoder: an assigned instruction, or `Unknown(w)` "carrying the raw word" (R54, R57). -/
inductive Decoded where
  | known (i : Instr)
  | unknown (w : Word)
  deriving DecidableEq, Repr

/-- Family 8, dispatched on `n` (R54); `none` is `Unknown`. -/
def decodeAlu (x y n : Nibble) : Option Instr :=
  match n.toNat with
  | 0x0 => some (.move x y)
  | 0x1 => some (.orReg x y)
  | 0x2 => some (.andReg x y)
  | 0x3 => some (.xorReg x y)
  | 0x4 => some (.addReg x y)
  | 0x5 => some (.sub x y)
  | 0x6 => some (.shiftRight x y)
  | 0x7 => some (.subN x y)
  | 0xE => some (.shiftLeft x y)
  | _ => none

/-- Family E, dispatched on `nn` (R54); `none` is `Unknown`. -/
def decodeKey (x : Nibble) (nn : Byte) : Option Instr :=
  if nn = 0x9E then some (.skipKey x)
  else if nn = 0xA1 then some (.skipNotKey x)
  else none

/-- Family F, dispatched on `nn` (R54); `none` is `Unknown`. -/
def decodeMisc (x : Nibble) (nn : Byte) : Option Instr :=
  if nn = 0x07 then some (.getDelay x)
  else if nn = 0x0A then some (.waitKey x)
  else if nn = 0x15 then some (.setDelay x)
  else if nn = 0x18 then some (.setSound x)
  else if nn = 0x1E then some (.addIndex x)
  else if nn = 0x29 then some (.fontAddr x)
  else if nn = 0x33 then some (.bcd x)
  else if nn = 0x55 then some (.saveRegs x)
  else if nn = 0x65 then some (.loadRegs x)
  else none

/-- Family 0: the whole word is compared (R54, C8); `none` is `Unknown`. -/
def decodeZero (w : Word) : Option Instr :=
  if w = 0x00E0 then some .clearDisplay
  else if w = 0x00EE then some .ret
  else none

/-- The instruction a word is assigned to, if any: dispatch on `n0` (R54). -/
def decodeInstr (w : Word) : Option Instr :=
  let x := fieldX w
  let y := fieldY w
  let n := fieldN w
  let nn := fieldNN w
  let nnn := fieldNNN w
  match (fieldMajor w).toNat with
  | 0x0 => decodeZero w
  | 0x1 => some (.jump nnn)
  | 0x2 => some (.call nnn)
  | 0x3 => some (.skipEqImm x nn)
  | 0x4 => some (.skipNeImm x nn)
  | 0x5 => if n = 0x0 then some (.skipEqReg x y) else none
  | 0x6 => some (.loadImm x nn)
  | 0x7 => some (.addImm x nn)
  | 0x8 => decodeAlu x y n
  | 0x9 => if n = 0x0 then some (.skipNeReg x y) else none
  | 0xA => some (.loadIndex nnn)
  | 0xB => some (.jumpOffset nnn)
  | 0xC => some (.random x nn)
  | 0xD => some (.draw x y n)
  | 0xE => decodeKey x nn
  | _ => decodeMisc x nn

/-- `Decode(w)`: a pure, total function of the word (R54, R57); it reads no state and no configuration. -/
def decode (w : Word) : Decoded :=
  match decodeInstr w with
  | some i => .known i
  | none => .unknown w

/-! ## Bytes -/

/-- Two bytes as a word, the byte at the lower address in `w[15:8]` (R33). -/
def wordOfBytes (hi lo : Byte) : Word := hi ++ lo

/-- The two bytes of a word in memory order: `w[15:8]` at the lower address (R33, R62). -/
def wordBytes (w : Word) : List Byte := [w.extractLsb' 8 8, w.extractLsb' 0 8]

/-- Why a list of bytes is no instruction. -/
inductive DecodeError where
  /-- Fewer than the two bytes of a word (R50). -/
  | truncated
  /-- The word is assigned to no instruction (R56). -/
  | unknownOpcode (w : Word)
  deriving DecidableEq, Repr

/-- The decoder on bytes: the first instruction and the bytes after it, or a rejection by name. -/
def decodeBytes : List Byte → Except DecodeError (Instr × List Byte)
  | hi :: lo :: rest =>
    match decode (wordOfBytes hi lo) with
    | .known i => .ok (i, rest)
    | .unknown w => .error (.unknownOpcode w)
  | _ => .error .truncated

/-- The word whose bits are those of `w` below `nbits`, every bit above them 0. -/
def tableWord (nbits w : Nat) : Word := BitVec.ofNat 16 (w % 2 ^ nbits)

/-- What the decoder reads from an instruction whose bits are `w`, numbered as spec/opcode_table.json
numbers them; the one word of an instruction is laid out high byte first (R33). -/
def decodeTableWord (nbits w : Nat) : Option Instr :=
  match decodeBytes (wordBytes (tableWord nbits w)) with
  | .ok (i, _) => some i
  | .error _ => none

/-! ## The encoder (R62) -/

/-- Format `A`: `w = (n0 << 12) | nnn` (R62). -/
def encodeA (n0 : Nibble) (nnn : Addr) : Word := n0 ++ nnn
/-- Formats `XI` and `XF`: `w = (n0 << 12) | (x << 8) | nn` (R62). -/
def encodeXI (n0 x : Nibble) (nn : Byte) : Word := (n0 ++ x) ++ nn
/-- Formats `XY` and `XYN`: `w = (n0 << 12) | (x << 8) | (y << 4) | n` (R62). -/
def encodeXY (n0 x y n : Nibble) : Word := ((n0 ++ x) ++ y) ++ n

/-- The word of an instruction (R55, R62). -/
def encode : Instr → Word
  | .clearDisplay => 0x00E0
  | .ret => 0x00EE
  | .jump nnn => encodeA 0x1 nnn
  | .call nnn => encodeA 0x2 nnn
  | .skipEqImm x nn => encodeXI 0x3 x nn
  | .skipNeImm x nn => encodeXI 0x4 x nn
  | .skipEqReg x y => encodeXY 0x5 x y 0x0
  | .loadImm x nn => encodeXI 0x6 x nn
  | .addImm x nn => encodeXI 0x7 x nn
  | .move x y => encodeXY 0x8 x y 0x0
  | .orReg x y => encodeXY 0x8 x y 0x1
  | .andReg x y => encodeXY 0x8 x y 0x2
  | .xorReg x y => encodeXY 0x8 x y 0x3
  | .addReg x y => encodeXY 0x8 x y 0x4
  | .sub x y => encodeXY 0x8 x y 0x5
  | .shiftRight x y => encodeXY 0x8 x y 0x6
  | .subN x y => encodeXY 0x8 x y 0x7
  | .shiftLeft x y => encodeXY 0x8 x y 0xE
  | .skipNeReg x y => encodeXY 0x9 x y 0x0
  | .loadIndex nnn => encodeA 0xA nnn
  | .jumpOffset nnn => encodeA 0xB nnn
  | .random x nn => encodeXI 0xC x nn
  | .draw x y n => encodeXY 0xD x y n
  | .skipKey x => encodeXI 0xE x 0x9E
  | .skipNotKey x => encodeXI 0xE x 0xA1
  | .getDelay x => encodeXI 0xF x 0x07
  | .waitKey x => encodeXI 0xF x 0x0A
  | .setDelay x => encodeXI 0xF x 0x15
  | .setSound x => encodeXI 0xF x 0x18
  | .addIndex x => encodeXI 0xF x 0x1E
  | .fontAddr x => encodeXI 0xF x 0x29
  | .bcd x => encodeXI 0xF x 0x33
  | .saveRegs x => encodeXI 0xF x 0x55
  | .loadRegs x => encodeXI 0xF x 0x65

/-- The bytes of an instruction in memory order (R62). -/
def encodeBytes (i : Instr) : List Byte := wordBytes (encode i)

/-! ## The opcode map (R55) -/

/-- A row of the opcode map: a word `w` selects it when `w AND mask = match` (R55). -/
structure OpcodeRow where
  mnemonic : String
  pattern : Word
  mask : Word
  deriving DecidableEq, Repr

/-- A word selects a row with `w AND mask = match` (R55). -/
def OpcodeRow.selects (r : OpcodeRow) (w : Word) : Bool := w &&& r.mask == r.pattern

/-- Rows of the families 0 to 7 (R55). -/
def opcodeRowsLow : List OpcodeRow := [
  ⟨"00E0", 0x00E0, 0xFFFF⟩, ⟨"00EE", 0x00EE, 0xFFFF⟩, ⟨"1NNN", 0x1000, 0xF000⟩, ⟨"2NNN", 0x2000, 0xF000⟩,
  ⟨"3XNN", 0x3000, 0xF000⟩, ⟨"4XNN", 0x4000, 0xF000⟩, ⟨"5XY0", 0x5000, 0xF00F⟩, ⟨"6XNN", 0x6000, 0xF000⟩,
  ⟨"7XNN", 0x7000, 0xF000⟩]

/-- Rows of family 8 (R55). -/
def opcodeRowsAlu : List OpcodeRow := [
  ⟨"8XY0", 0x8000, 0xF00F⟩, ⟨"8XY1", 0x8001, 0xF00F⟩, ⟨"8XY2", 0x8002, 0xF00F⟩, ⟨"8XY3", 0x8003, 0xF00F⟩,
  ⟨"8XY4", 0x8004, 0xF00F⟩, ⟨"8XY5", 0x8005, 0xF00F⟩, ⟨"8XY6", 0x8006, 0xF00F⟩, ⟨"8XY7", 0x8007, 0xF00F⟩,
  ⟨"8XYE", 0x800E, 0xF00F⟩]

/-- Rows of the families 9 to D (R55). -/
def opcodeRowsHigh : List OpcodeRow := [
  ⟨"9XY0", 0x9000, 0xF00F⟩, ⟨"ANNN", 0xA000, 0xF000⟩, ⟨"BNNN", 0xB000, 0xF000⟩, ⟨"CXNN", 0xC000, 0xF000⟩,
  ⟨"DXYN", 0xD000, 0xF000⟩]

/-- Rows of the families E and F (R55). -/
def opcodeRowsMisc : List OpcodeRow := [
  ⟨"EX9E", 0xE09E, 0xF0FF⟩, ⟨"EXA1", 0xE0A1, 0xF0FF⟩, ⟨"FX07", 0xF007, 0xF0FF⟩, ⟨"FX0A", 0xF00A, 0xF0FF⟩,
  ⟨"FX15", 0xF015, 0xF0FF⟩, ⟨"FX18", 0xF018, 0xF0FF⟩, ⟨"FX1E", 0xF01E, 0xF0FF⟩, ⟨"FX29", 0xF029, 0xF0FF⟩,
  ⟨"FX33", 0xF033, 0xF0FF⟩, ⟨"FX55", 0xF055, 0xF0FF⟩, ⟨"FX65", 0xF065, 0xF0FF⟩]

/-- The complete opcode map, 34 rows (R55). -/
def opcodeRows : List OpcodeRow := opcodeRowsLow ++ opcodeRowsAlu ++ opcodeRowsHigh ++ opcodeRowsMisc

/-- The row name of an instruction (R55). -/
def Instr.mnemonic : Instr → String
  | .clearDisplay => "00E0"
  | .ret => "00EE"
  | .jump _ => "1NNN"
  | .call _ => "2NNN"
  | .skipEqImm _ _ => "3XNN"
  | .skipNeImm _ _ => "4XNN"
  | .skipEqReg _ _ => "5XY0"
  | .loadImm _ _ => "6XNN"
  | .addImm _ _ => "7XNN"
  | .move _ _ => "8XY0"
  | .orReg _ _ => "8XY1"
  | .andReg _ _ => "8XY2"
  | .xorReg _ _ => "8XY3"
  | .addReg _ _ => "8XY4"
  | .sub _ _ => "8XY5"
  | .shiftRight _ _ => "8XY6"
  | .subN _ _ => "8XY7"
  | .shiftLeft _ _ => "8XYE"
  | .skipNeReg _ _ => "9XY0"
  | .loadIndex _ => "ANNN"
  | .jumpOffset _ => "BNNN"
  | .random _ _ => "CXNN"
  | .draw _ _ _ => "DXYN"
  | .skipKey _ => "EX9E"
  | .skipNotKey _ => "EXA1"
  | .getDelay _ => "FX07"
  | .waitKey _ => "FX0A"
  | .setDelay _ => "FX15"
  | .setSound _ => "FX18"
  | .addIndex _ => "FX1E"
  | .fontAddr _ => "FX29"
  | .bcd _ => "FX33"
  | .saveRegs _ => "FX55"
  | .loadRegs _ => "FX65"

end Sys2Proof
end

