-- ==== Sys2Proof/WellFormed.lean ====
section
/-!
DEFINITION. The checks on what comes from outside. An instruction needs none: the operand types of
`Instr` are exactly the widths of the fields (R51, R53), so every term of `Instr` is well formed. What can be
ill formed is a configuration (R5) and a program image (R41). A font table has its 80 bytes by type.
-/

namespace Sys2Proof

/-- A configuration is well formed iff every glyph lies inside memory: `font_start + 80 <= 4096` (R5, D27). -/
def Config.wellFormed (c : Config) : Bool :=
  decide (c.fontStart.toNat + fontLen ≤ memSize)

/-- A program image fits iff it has at most 3584 bytes (R41); a longer one is a failed load (R162). -/
def programFits (image : List Byte) : Bool :=
  decide (image.length ≤ progMax)

end Sys2Proof
end

