-- ==== Sys2Proof/Machine/Events.lean ====
section
/-!
DEFINITION. The parts of the events that run no instruction: which event comes next (spec/00_scope.md R7,
R8), the fetch unit (spec/40_fetch_and_control_flow.md R65, R67), the polling step
(spec/44_keypad_and_timers.md R120, R121), the timer tick (spec/60_exceptions.md R145), the loads
(spec/20_memory.md R41) and `Reset` (spec/70_reset_and_hazards.md R160).
-/

namespace Sys2Proof.Machine

/-! ## The host's events (R7, R8) -/

/-- The next event: the oldest one the host has chosen, or else a free one (log 1). -/
def State.nextEvent (s : State) : Event :=
  match s.events with
  | e :: _ => e
  | [] => Config.hostEvent s.drawn

/-- The state with its next event taken off the list (log 1). -/
def State.dropEvent (s : State) : State :=
  { s with events := s.events.tail, drawn := s.drawn + 1 }

/-- The inputs presented with a `Step` (R23, R24); from the first `Step` on no load is a transition (R41). -/
def State.present (s : State) (keys : Word) (rnd : Byte) : State :=
  { s with phase := .running, keys := keys, rnd := rnd }

/-! ## The fetch unit (R33, R67) -/

/-- Both bytes of the word at `pc` lie in memory (R67). -/
def State.fetchInRange (s : State) : Bool := decide (s.pc.toNat ≤ 0x0FFE)

/-- `w = Mem[pc] ∥ Mem[pc + 1]` (R33). -/
def State.fetchWord (s : State) : Word :=
  wordOfBytes (Memory.read s.mem s.pc.toNat) (Memory.read s.mem (s.pc.toNat + 1))

/-! ## The polling step (R120, R121) -/

/-- `lowest_key(keys)`: the least `k` with `keys[k] = 1`; `none` when no key is pressed (R121). -/
def lowestKey (keys : Word) : Option Nat :=
  (List.range 16).find? fun k => keys.getLsbD k

/-- `PollKey(keys)`: the lowest pressed key goes to `V[key_reg]` and the wait ends; with no key pressed
nothing changes (R120). -/
def State.pollKey (s : State) : State :=
  match lowestKey s.keys with
  | some k => { s.setReg s.keyReg (BitVec.ofNat 8 k) with awaitingKey := false }
  | none => s

/-! ## The timer tick (R145) -/

/-- One timer: decremented, and kept at zero (R145). -/
def tickTimer (t : Byte) : Byte := if t = 0 then 0 else t - 1

/-- `Tick()`: both timers, and nothing else (R145). -/
def State.tick (s : State) : State := { s with dt := tickTimer s.dt, st := tickTimer s.st }

/-! ## Loads (R41, R162) -/

/-- `Load(addr, bytes)`: `bytes[k]` goes to `Mem[addr + k]` (R41). -/
def State.load (s : State) (addr : Nat) (bytes : List Byte) : State :=
  { s with mem := Memory.writeBlock s.mem addr bytes }

/-- A failed load: "memory content is then unspecified" (R41), the free value of log 5, and the machine has
no transition but `Reset` (R162). -/
def State.failLoad (s : State) : State :=
  { s with mem := Memory.writeBlock [] 0 (Config.failedLoadBytes s.drawn), phase := .loadFailed }

/-- `load_program(bytes)`: to 0x200, failing when the image has more than 3584 bytes (R41). -/
def State.loadProgram (s : State) (image : List Byte) : State :=
  if programFits image then s.load progBase image else s.failLoad

/-- `load_font(bytes)`: to `cfg.font_start` (R41). -/
def State.loadFont (s : State) (font : Vector Byte 80) : State :=
  s.load s.cfg.fontStart.toNat font.toList

/-- A load is a transition only between `Reset` and the first `Step` (R41, D36). -/
def State.whileLoading (s t : State) : Host.Outcome State Fault Refusal :=
  match s.phase with
  | .loading => .next t
  | .running => .refused .loadAfterFirstStep
  | .loadFailed => .fault .stuckAfterFailedLoad

/-- After a failed load neither `Step` nor `Tick` is a transition (R162). -/
def State.unlessFailed (s : State) (r : Host.Outcome State Fault Refusal) : Host.Outcome State Fault Refusal :=
  match s.phase with
  | .loadFailed => .fault .stuckAfterFailedLoad
  | _ => r

/-! ## Reset (R160) -/

/-- `Reset(cfg)` in any state: every piece of the machine's state at its reset value; the parameter of the
build and the host's list of events are not the machine's state and stay (log 7). -/
def State.hostReset (s : State) (cfg : Config) : Host.Outcome State Fault Refusal :=
  if cfg.wellFormed then .next { State.resetWith cfg s.param with events := s.events, drawn := s.drawn }
  else .refused .illFormedConfig

end Sys2Proof.Machine
end

