-- ==== Sys2Proof/Machine/Cycle.lean ====
section
/-!
DEFINITION. The step cycle (spec/40_fetch_and_control_flow.md R65) and the transition of each event
(spec/00_scope.md R7).
-/

namespace Sys2Proof.Machine

/-- Decode the fetched word and execute it; `Unknown(w)` raises `UnknownOpcode` (R57, R65, R132). -/
def State.execWord (s : State) (w : Word) : Host.Outcome State Fault Refusal :=
  match decode w with
  | .known i => exec i s
  | .unknown w => .next (s.raise .unknownOpcode w)

/-- `Step(keys, rnd)` with its inputs presented: a halted core does nothing, a core awaiting a key polls,
and otherwise one instruction is fetched and executed (R65, R141). -/
def State.cycle (s : State) : Host.Outcome State Fault Refusal :=
  if s.fault.valid then .next s
  else if s.awaitingKey then .next s.pollKey
  else if s.fetchInRange then s.execWord s.fetchWord
  else .next (s.raise .fetchRange s.pc)

/-- The transition of one event (R7). -/
def State.perform (s : State) : Event → Host.Outcome State Fault Refusal
  | .reset cfg => s.hostReset cfg
  | .loadProgram image => s.whileLoading (s.loadProgram image)
  | .loadFont font => s.whileLoading (s.loadFont font)
  | .loadUnreadable => s.whileLoading s.failLoad
  | .step keys rnd => s.unlessFailed (s.present keys rnd).cycle
  | .tick => s.unlessFailed (.next s.tick)

end Sys2Proof.Machine
end

