-- ==== Sys2Proof/Machine/Step.lean ====
section
/-!
DEFINITION. One step of the machine: the next event (spec/00_scope.md R7, R8).
-/

namespace Sys2Proof.Machine

/-- One event: the oldest one the host has chosen, or else a free one (R7, R8; log 1). -/
def step (s : State) : Host.Outcome State Fault Refusal :=
  s.dropEvent.perform s.nextEvent

/-- `s` with an instruction's word in memory at `pc` and a `Step` as the next event, presenting the inputs
that stand in `s` (log 13). -/
def State.withFetchWord (s : State) (nbits w : Nat) : State :=
  { s.load s.pc.toNat (wordBytes (tableWord nbits w)) with events := .step s.keys s.rnd :: s.events }

end Sys2Proof.Machine
end

