-- ==== Sys2Proof/Safety.lean ====
section
/-!
DEFINITION. The terms the claims are stated in: no fault recorded (spec/60_exceptions.md R142), the end of a
run (spec/70_reset_and_hazards.md R164), the machine's invariants (spec/10_state.md R26), and what a claim
compares an instruction's effect with.
-/

namespace Sys2Proof.Machine

/-- No fault is recorded: among the obligations of every claim that a program "runs correctly" (R142). -/
def State.noFault (s : State) : Bool := !s.fault.valid

/-- The end of a run, for claims that need one (R164, D38): not halted, not awaiting a key, and `pc` addresses
a `1NNN` word whose `nnn` equals `pc`. -/
def State.atEnd (s : State) : Bool :=
  s.noFault && !s.awaitingKey && s.fetchInRange &&
    match decode s.fetchWord with
    | .known (.jump nnn) => addrWord nnn == s.pc
    | _ => false

/-- What holds in every reachable state (R26; the last four clauses say what R5, R18 and R41 add). `0 <= sp <=
32` and the widths hold by the types of the fields. -/
structure State.Inv (s : State) : Prop where
  /-- R26 (b): `0 <= I <= 0x0FFF`. -/
  index_le : s.index.toNat ≤ 0x0FFF
  /-- R26 (c): `0 <= pc <= 0x10FE`. -/
  pc_le : s.pc.toNat ≤ 0x10FE
  /-- A stack entry is `npc` of a `2NNN` that was fetched (R14, R66), or its reset value. -/
  stack_le : ∀ k : Fin 32, s.stack[k].toNat ≤ 0x1000
  /-- R26 (e): memory lists addresses 0 to 4095 alone, in canonical form. -/
  mem_wf : Memory.wf s.mem = true
  /-- R26 (f): `awaiting_key` and `fault.valid` never hold together. -/
  not_both : ¬ (s.awaitingKey = true ∧ s.fault.valid = true)
  /-- R5: the configuration is well formed. -/
  cfg_wf : s.cfg.wellFormed = true
  /-- R18, R130: while no fault is recorded the record holds zeros. -/
  record_clear : s.fault.valid = false → s.fault = FaultRecord.none
  /-- R130, R142: a recorded fault has a code, and `pc` still addresses the faulting instruction. -/
  record_set : s.fault.valid = true → s.fault.cause ≠ 0 ∧ s.fault.pc = s.pc
  /-- R18, R19, R41: before the first `Step` nothing has faulted and nothing waits. -/
  idle_before_step : s.phase ≠ .running → s.fault.valid = false ∧ s.awaitingKey = false

/-- The state a `Step(keys, rnd)` finds: `s` with that event taken off the host's list and its inputs
presented. Every piece of the spec's state is that of `s`. -/
def State.started (s : State) (keys : Word) (rnd : Byte) : State :=
  { s with phase := .running, keys := keys, rnd := rnd, events := s.events.tail, drawn := s.drawn + 1 }

/-- The state after another event has been taken off the host's list: every piece of the spec's state is that
of `s`. -/
def State.taken (s : State) : State :=
  { s with events := s.events.tail, drawn := s.drawn + 1 }

/-- The core is free to fetch: it is not halted and not awaiting a key, and no load has failed (R65, R162). -/
def State.Ready (s : State) : Prop :=
  s.fault.valid = false ∧ s.awaitingKey = false ∧ s.phase ≠ .loadFailed

/-- An instruction's word is the number `w`, and that word decodes to it (R54, R62). -/
def EncodedAs (i : Instr) (w : Nat) : Prop :=
  (encode i).toNat = w ∧ decode (encode i) = .known i

/-- The pixel of row `row` and column `col` is covered by a 1 bit of the sprite of `n` bytes at address `i`
drawn at column `cx` and row `cy`: sprite row `(row - cy) mod 32`, sprite column `(col - cx) mod 64`, bit 7 the
leftmost (R109). `cx` and `cy` are at most 255, so adding 256 keeps the differences natural numbers. -/
def spriteCovers (mem : Memory) (i n cx cy row col : Nat) : Bool :=
  let r := (row + 256 - cy) % 32
  let c := (col + 256 - cx) % 64
  decide (r < n) && decide (c < 8) && (Memory.read mem (i + r)).getLsbD (7 - c)

end Sys2Proof.Machine
end

