-- ==== Sys2Proof/Certificates/Slice0/Obligations.lean ====
section
/-!
DEFINITION. The statements for the provers. The spec's state is every field of `State` but `phase`, `keys`,
`rnd`, `events` and `drawn`, which are the model's own (logs 1, 2, 4). An effect is stated as a next state `t`
with `t = { s with … }`, which names every field that may change: everything else, every byte of memory
included, is unchanged.
-/

open Sys2Proof Sys2Proof.Machine

/-! ## Encoding (spec/30_encoding.md) -/

/-- R54, R62: the decoder reads back every encoded instruction, with every operand at every value, from its
word and from its bytes. -/
def Obligations.DecodeReadsBackEveryEncodedInstruction : Prop :=
  ∀ (i : Instr) (rest : List Byte),
    decode (encode i) = .known i ∧ decodeBytes (encodeBytes i ++ rest) = .ok (i, rest)

/-- R54, R62: the other direction: an instruction is decoded from its own word only. -/
def Obligations.EveryAssignedWordIsTheWordOfItsInstruction : Prop :=
  ∀ (w : Word) (i : Instr), decode w = .known i → encode i = w

/-- R55: a word decodes to an instruction iff it selects a row, the row is the one named after the instruction,
and no other row is selected (the rows are pairwise disjoint). -/
def Obligations.DecodedWordSelectsExactlyItsOwnRow : Prop :=
  ∀ w : Word,
    (∀ i, decode w = .known i →
      ∃ r ∈ opcodeRows, r.mnemonic = i.mnemonic ∧ ∀ q ∈ opcodeRows, q.selects w = true ↔ q = r) ∧
    (∀ u, decode w = .unknown u → ∀ q ∈ opcodeRows, q.selects w = false)

/-- R56 (a) to (f): the words that decode to `Unknown(w)`, and that the variant carries the raw word (R57). -/
def Obligations.UnknownWordsAreTheSixUnassignedClasses : Prop :=
  ∀ w u : Word, decode w = .unknown u ↔
    u = w ∧
    let major := w.toNat / 4096
    let n := w.toNat % 16
    let nn := w.toNat % 256
    (major = 0x0 ∧ w ≠ 0x00E0 ∧ w ≠ 0x00EE) ∨
    (major = 0x5 ∧ n ≠ 0) ∨
    (major = 0x8 ∧ n ∈ [0x8, 0x9, 0xA, 0xB, 0xC, 0xD, 0xF]) ∨
    (major = 0x9 ∧ n ≠ 0) ∨
    (major = 0xE ∧ nn ∉ [0x9E, 0xA1]) ∨
    (major = 0xF ∧ nn ∉ [0x07, 0x0A, 0x15, 0x18, 0x1E, 0x29, 0x33, 0x55, 0x65])

/-- R55, R62 and the words of spec/95_test_vectors.md: a word of each leading nibble from 0 to F, the three timer
instructions among them, decodes to the instruction it stands for, and three words of no row to `Unknown`. -/
def Obligations.WordsWrittenFromTheSpecDecode : Prop :=
  decode 0x00E0 = .known .clearDisplay ∧ decode 0x00EE = .known .ret ∧ decode 0x1ABC = .known (.jump 0xABC) ∧
  decode 0x2300 = .known (.call 0x300) ∧ decode 0x3042 = .known (.skipEqImm 0 0x42) ∧
  decode 0x4042 = .known (.skipNeImm 0 0x42) ∧ decode 0x5010 = .known (.skipEqReg 0 1) ∧
  decode 0x6005 = .known (.loadImm 0 0x05) ∧ decode 0x7003 = .known (.addImm 0 0x03) ∧
  decode 0x8014 = .known (.addReg 0 1) ∧ decode 0x9010 = .known (.skipNeReg 0 1) ∧
  decode 0xA20C = .known (.loadIndex 0x20C) ∧ decode 0xB210 = .known (.jumpOffset 0x210) ∧
  decode 0xC00F = .known (.random 0 0x0F) ∧ decode 0xD125 = .known (.draw 1 2 5) ∧
  decode 0xE09E = .known (.skipKey 0) ∧ decode 0xF30A = .known (.waitKey 3) ∧ decode 0xF265 = .known (.loadRegs 2) ∧
  decode 0xF407 = .known (.getDelay 4) ∧ decode 0xFA15 = .known (.setDelay 0xA) ∧ decode 0xF018 = .known (.setSound 0) ∧
  decode 0x0000 = .unknown 0x0000 ∧ decode 0x01E0 = .unknown 0x01E0 ∧ decode 0x8018 = .unknown 0x8018

/-! ## The step cycle (spec/40_fetch_and_control_flow.md, spec/60_exceptions.md)

The event that comes next, the life cycle and `State.started` are the model's rendering of R7 (logs 1, 2, 4). -/

/-- R33, R65: when the next event is a `Step`, the core is free to fetch, `pc <= 0x0FFE` and the bytes at `pc`
and `pc + 1`, high byte first, decode to `i`, the step is `exec i` on the state with the inputs presented. -/
def Obligations.StepRunsTheDecodedInstruction : Prop :=
  ∀ (s : State) (keys : Word) (rnd hi lo : Byte) (i : Instr),
    s.nextEvent = .step keys rnd → s.Ready → s.pc.toNat ≤ 0x0FFE →
    Memory.read s.mem s.pc.toNat = hi → Memory.read s.mem (s.pc.toNat + 1) = lo →
    decode (BitVec.ofNat 16 (hi.toNat * 256 + lo.toNat)) = .known i →
    step s = exec i (s.started keys rnd)

/-- R67, R131: `pc > 0x0FFE` raises `FetchRange` with `fault.pc = fault.info = pc`, and nothing else of the
spec's state changes. -/
def Obligations.FetchOutsideMemoryRaisesFetchRange : Prop :=
  ∀ (s : State) (keys : Word) (rnd : Byte),
    s.nextEvent = .step keys rnd → s.Ready → 0x0FFE < s.pc.toNat →
    step s = .next { s.started keys rnd with fault := ⟨true, 1, s.pc, s.pc⟩ }

/-- R57, R132: a fetched word of no row raises `UnknownOpcode` with the word as `fault.info`. -/
def Obligations.UnassignedWordRaisesUnknownOpcode : Prop :=
  ∀ (s : State) (keys : Word) (rnd : Byte) (w : Word),
    s.nextEvent = .step keys rnd → s.Ready → s.pc.toNat ≤ 0x0FFE →
    w.toNat = (Memory.read s.mem s.pc.toNat).toNat * 256 + (Memory.read s.mem (s.pc.toNat + 1)).toNat →
    (∀ r ∈ opcodeRows, r.selects w = false) →
    step s = .next { s.started keys rnd with fault := ⟨true, 2, s.pc, w⟩ }

/-- R65, R143: a `Step` of a halted core changes nothing of the spec's state, whatever `pc` addresses and also
while a key is awaited. -/
def Obligations.HaltedCoreIgnoresEveryStep : Prop :=
  ∀ (s : State) (keys : Word) (rnd : Byte),
    s.nextEvent = .step keys rnd → s.phase ≠ .loadFailed → s.fault.valid = true →
    step s = .next (s.started keys rnd)

/-- R120, R121: a `Step` of a core awaiting a key changes nothing while no key is pressed, and otherwise writes
the lowest-numbered pressed key to `V[key_reg]` and ends the wait; nothing is fetched. -/
def Obligations.PollingStepTakesTheLowestPressedKey : Prop :=
  ∀ (s : State) (keys : Word) (rnd : Byte),
    s.nextEvent = .step keys rnd → s.phase ≠ .loadFailed → s.fault.valid = false → s.awaitingKey = true →
    (keys = 0 → step s = .next (s.started keys rnd)) ∧
    (∀ k, k < 16 → keys.getLsbD k = true → (∀ j, j < k → keys.getLsbD j = false) →
      ∃ t, step s = .next t ∧ (∀ r, t.reg r = if r = s.keyReg then BitVec.ofNat 8 k else s.reg r) ∧
        t = { s.started keys rnd with v := t.v, awaitingKey := false })

/-- R142: a `Step` that records a fault changes nothing else of the spec's state, records the address of the
faulting instruction with a code of R130, and happens only where no fault was recorded. -/
def Obligations.RecordedFaultIsPrecise : Prop :=
  ∀ (s t : State) (keys : Word) (rnd : Byte),
    s.nextEvent = .step keys rnd → step s = .next t →
    t.fault = s.fault ∨
      (t = { s.started keys rnd with fault := t.fault } ∧ s.fault.valid = false ∧ t.fault.valid = true ∧
        1 ≤ t.fault.cause.toNat ∧ t.fault.pc = s.pc)

/-- R18, R143: no event but `Reset` changes the record of a halted core. -/
def Obligations.FaultRecordIsStickyUntilReset : Prop :=
  ∀ s t : State, s.fault.valid = true → step s = .next t → (∀ c, s.nextEvent ≠ .reset c) → t.fault = s.fault

/-- R57, R138, R145: a `Step` and a `Tick` have an outcome in every state of the core: no instruction, no word
and no operand value ends a run. -/
def Obligations.StepAndTickAlwaysAnswer : Prop :=
  ∀ s : State, s.phase ≠ .loadFailed → (s.nextEvent = .tick ∨ ∃ keys rnd, s.nextEvent = .step keys rnd) →
    ∃ t, step s = .next t

/-! ## Timer tick, loads and reset (spec/60_exceptions.md R145, spec/20_memory.md R41, spec/70_reset_and_hazards.md)

The event list is the model's rendering of R7 and R8 (log 1), the life cycle that of R41 and R162 (log 4). -/

/-- R145: `Tick` decrements both timers, stops at zero, and changes nothing else, halted or waiting or not. -/
def Obligations.TickDecrementsBothTimersAndNothingElse : Prop :=
  ∀ s : State, s.nextEvent = .tick → s.phase ≠ .loadFailed →
    ∃ t, step s = .next t ∧ t.dt.toNat = s.dt.toNat - 1 ∧ t.st.toNat = s.st.toNat - 1 ∧
      t = { s.taken with dt := t.dt, st := t.st }

/-- R145: after `n` ticks a timer that held `v` holds `v - n`, and 0 from `v` ticks on. -/
def Obligations.TimersReachZeroAfterTheirCountOfTicks : Prop :=
  ∀ (n : Nat) (s : State) (es : List Event), s.events = List.replicate n .tick ++ es → s.phase ≠ .loadFailed →
    ∃ t : State, core.run n s = .next t ∧ t.dt.toNat = s.dt.toNat - n ∧ t.st.toNat = s.st.toNat - n ∧
      t = { s with dt := t.dt, st := t.st, events := es, drawn := s.drawn + n }

/-- R8, R146: the two strobes together are the `Step` first and then the `Tick`, which takes place also where
the `Step` faults. -/
def Obligations.StrobesTogetherActAsStepThenTick : Prop :=
  ∀ (s t : State) (keys : Word) (rnd : Byte) (es : List Event),
    s.events = Event.strobesTogether keys rnd ++ es → step s = .next t →
    ∃ u : State, core.run 2 s = .next u ∧ u.dt.toNat = t.dt.toNat - 1 ∧ u.st.toNat = t.st.toNat - 1 ∧
      u = { t with dt := u.dt, st := u.st, events := es, drawn := t.drawn + 1 }

/-- R27: every piece of the spec's state at its reset value, and the default configuration. -/
def Obligations.ResetLeavesTheStatedValues : Prop :=
  (∀ r, State.reset.reg r = 0x00) ∧ State.reset.index = 0x0000 ∧ State.reset.pc = 0x0200 ∧
  State.reset.sp.val = 0 ∧ (∀ k : Fin 32, State.reset.stack[k] = 0x0000) ∧
  State.reset.dt = 0x00 ∧ State.reset.st = 0x00 ∧ (∀ a, Memory.read State.reset.mem a = 0x00) ∧
  State.reset.fault = ⟨false, 0, 0, 0⟩ ∧ State.reset.awaitingKey = false ∧ State.reset.keyReg = 0x0 ∧
  (∀ row col, Frame.pixel State.reset.fb row col = false) ∧
  State.reset.cfg = { fontStart := 0x050, offJumpLegacy := false, regSaveLegacy := false, indexAddCarry := false }

/-- R160: `Reset(cfg)` with a well-formed configuration restores the reset values in any state, halted, waiting
or after a failed load, with that configuration; the build's parameter stays (log 7). -/
def Obligations.ResetRestoresTheResetValuesFromAnyState : Prop :=
  ∀ (s : State) (c : Config), s.nextEvent = .reset c → c.fontStart.toNat ≤ 0x0FB0 →
    ∃ t, step s = .next t ∧ t.cfg = c ∧ t.param = s.param ∧
      t = { State.reset with cfg := c, param := s.param, events := s.events.tail, drawn := s.drawn + 1 }

/-- R5: `Reset` with an ill-formed configuration is refused. -/
def Obligations.ResetRefusesAnIllFormedConfiguration : Prop :=
  ∀ (s : State) (c : Config), s.nextEvent = .reset c → 0x0FB0 < c.fontStart.toNat →
    step s = .refused .illFormedConfig

/-- R41: `load_program` copies an image of at most 3584 bytes to 0x200 on and changes no other byte. -/
def Obligations.LoadProgramStoresTheImageAt0x200 : Prop :=
  ∀ (s : State) (image : List Byte), s.nextEvent = .loadProgram image → s.phase = .loading →
    image.length ≤ 3584 → Memory.wf s.mem = true →
    ∃ t, step s = .next t ∧
      (∀ k (h : k < image.length), Memory.read t.mem (0x200 + k) = image[k]) ∧
      (∀ a, a < 0x200 ∨ 0x200 + image.length ≤ a → Memory.read t.mem a = Memory.read s.mem a) ∧
      t = { s.taken with mem := t.mem }

/-- R41: `load_font` copies the 80 bytes to `cfg.font_start` on and changes no other byte. -/
def Obligations.LoadFontStoresTheTableAtFontStart : Prop :=
  ∀ (s : State) (font : Vector Byte 80), s.nextEvent = .loadFont font → s.phase = .loading →
    s.cfg.fontStart.toNat ≤ 0x0FB0 → Memory.wf s.mem = true →
    ∃ t, step s = .next t ∧
      (∀ k : Fin 80, Memory.read t.mem (s.cfg.fontStart.toNat + k.val) = font[k]) ∧
      (∀ a, a < s.cfg.fontStart.toNat ∨ s.cfg.fontStart.toNat + 80 ≤ a → Memory.read t.mem a = Memory.read s.mem a) ∧
      t = { s.taken with mem := t.mem }

/-- R162: an image of more than 3584 bytes or an unreadable source is a failed load, which leaves every
register alone, and after a failed load every event but `Reset` is stuck (the fault's name is the model's, log 5). -/
def Obligations.FailedLoadAdmitsOnlyReset : Prop :=
  (∀ s : State, s.phase = .loading →
    (s.nextEvent = .loadUnreadable ∨ ∃ image, s.nextEvent = .loadProgram image ∧ 3584 < image.length) →
    ∃ t, step s = .next t ∧ t.phase = .loadFailed ∧ t = { s.taken with mem := t.mem, phase := t.phase }) ∧
  (∀ s : State, s.phase = .loadFailed → (∀ c, s.nextEvent ≠ .reset c) → step s = .fault .stuckAfterFailedLoad)

/-- R41: after the first `Step` no load is a transition (the refusal's name is the model's, log 4). -/
def Obligations.LoadAfterTheFirstStepIsRefused : Prop :=
  (∀ (s t : State) (keys : Word) (rnd : Byte), s.nextEvent = .step keys rnd → step s = .next t → t.phase = .running) ∧
  (∀ (s : State) (image : List Byte) (font : Vector Byte 80), s.phase = .running →
    (s.nextEvent = .loadProgram image ∨ s.nextEvent = .loadFont font ∨ s.nextEvent = .loadUnreadable) →
    step s = .refused .loadAfterFirstStep)

/-! ## Control transfer (spec/40_fetch_and_control_flow.md) -/

/-- R70, R134: `00EE` pops `stack[sp-1]` into `pc`; with `sp = 0` it raises `StackUnderflow`. -/
def Obligations.ReturnPopsTheStackIntoPc : Prop :=
  EncodedAs .ret 0x00EE ∧
  (∀ (s : State) (k : Fin 32), s.sp.val = k.val + 1 →
    ∃ t, exec .ret s = .next t ∧ t.pc = s.stack[k] ∧ t.sp.val = k.val ∧ t = { s with pc := t.pc, sp := t.sp }) ∧
  (∀ s : State, s.sp.val = 0 → exec .ret s = .next { s with fault := ⟨true, 4, s.pc, 0x0000⟩ })

/-- R71: `1NNN` sets `pc` to `nnn` and changes nothing else. -/
def Obligations.JumpSetsPcToTheAddress : Prop :=
  ∀ (s : State) (nnn : Addr), EncodedAs (.jump nnn) (0x1000 + nnn.toNat) ∧
    ∃ t, exec (.jump nnn) s = .next t ∧ t.pc.toNat = nnn.toNat ∧ t = { s with pc := t.pc }

/-- R72, R133: `2NNN` pushes the address after the call and jumps; with `sp = 32` it raises `StackOverflow`. -/
def Obligations.CallPushesTheReturnAddressAndJumps : Prop :=
  (∀ nnn : Addr, EncodedAs (.call nnn) (0x2000 + nnn.toNat)) ∧
  (∀ (s : State) (nnn : Addr) (k : Fin 32), s.sp.val = k.val →
    ∃ t, exec (.call nnn) s = .next t ∧ t.pc.toNat = nnn.toNat ∧ t.sp.val = k.val + 1 ∧
      (∀ j : Fin 32, t.stack[j] = if j = k then s.pc + 2 else s.stack[j]) ∧
      t = { s with pc := t.pc, sp := t.sp, stack := t.stack }) ∧
  (∀ (s : State) (nnn : Addr), s.sp.val = 32 →
    exec (.call nnn) s = .next { s with fault := ⟨true, 3, s.pc, 0x0020⟩ })

/-- R68, R70, R72: a return in any state that has the stack the call left comes back to the instruction after
the call, with the stack pointer the call found. -/
def Obligations.ReturnComesBackAfterTheCall : Prop :=
  ∀ (s t r : State) (nnn : Addr), s.sp.val < 32 → exec (.call nnn) s = .next t → r.stack = t.stack → r.sp = t.sp →
    ∃ u, exec .ret r = .next u ∧ u.pc = s.pc + 2 ∧ u.sp = s.sp

/-- R73, R74: `3XNN` and `4XNN` add 4 to `pc` when they skip and 2 when they do not. -/
def Obligations.ImmediateSkipsCompareTheRegister : Prop :=
  ∀ (s : State) (x : Nibble) (nn : Byte),
    EncodedAs (.skipEqImm x nn) (0x3000 + x.toNat * 256 + nn.toNat) ∧
    EncodedAs (.skipNeImm x nn) (0x4000 + x.toNat * 256 + nn.toNat) ∧
    (∃ t, exec (.skipEqImm x nn) s = .next t ∧ t.pc = (if s.reg x = nn then s.pc + 4 else s.pc + 2) ∧
      t = { s with pc := t.pc }) ∧
    (∃ t, exec (.skipNeImm x nn) s = .next t ∧ t.pc = (if s.reg x = nn then s.pc + 2 else s.pc + 4) ∧
      t = { s with pc := t.pc })

/-- R75, R76: `5XY0` and `9XY0` add 4 to `pc` when they skip and 2 when they do not. -/
def Obligations.RegisterSkipsCompareTwoRegisters : Prop :=
  ∀ (s : State) (x y : Nibble),
    EncodedAs (.skipEqReg x y) (0x5000 + x.toNat * 256 + y.toNat * 16) ∧
    EncodedAs (.skipNeReg x y) (0x9000 + x.toNat * 256 + y.toNat * 16) ∧
    (∃ t, exec (.skipEqReg x y) s = .next t ∧ t.pc = (if s.reg x = s.reg y then s.pc + 4 else s.pc + 2) ∧
      t = { s with pc := t.pc }) ∧
    (∃ t, exec (.skipNeReg x y) s = .next t ∧ t.pc = (if s.reg x = s.reg y then s.pc + 2 else s.pc + 4) ∧
      t = { s with pc := t.pc })

/-- R77: `BNNN` jumps to `nnn + V[0]` in legacy mode and to `nnn + V[x]`, `x = nnn[11:8]`, otherwise; the sum
is not reduced modulo 4096. -/
def Obligations.JumpOffsetAddsTheSelectedRegister : Prop :=
  ∀ (s : State) (nnn : Addr), EncodedAs (.jumpOffset nnn) (0xB000 + nnn.toNat) ∧
    ∃ t, exec (.jumpOffset nnn) s = .next t ∧
      t.pc.toNat = nnn.toNat +
        (s.reg (if s.cfg.offJumpLegacy then 0x0 else BitVec.ofNat 4 (nnn.toNat / 256))).toNat ∧
      t = { s with pc := t.pc }

/-! ## Load, ALU, random (spec/41_load_and_alu.md) -/

/-- R80, R81: `6XNN` loads `nn`; `7XNN` adds `nn` modulo 256 and writes no flag. -/
def Obligations.ImmediateLoadAndAddWriteTheirRegister : Prop :=
  ∀ (s : State) (x : Nibble) (nn : Byte),
    EncodedAs (.loadImm x nn) (0x6000 + x.toNat * 256 + nn.toNat) ∧
    EncodedAs (.addImm x nn) (0x7000 + x.toNat * 256 + nn.toNat) ∧
    (∃ t, exec (.loadImm x nn) s = .next t ∧ (∀ r, t.reg r = if r = x then nn else s.reg r) ∧
      t = { s with v := t.v, pc := s.pc + 2 }) ∧
    (∃ t, exec (.addImm x nn) s = .next t ∧ (t.reg x).toNat = ((s.reg x).toNat + nn.toNat) % 256 ∧
      (∀ r, r ≠ x → t.reg r = s.reg r) ∧ t = { s with v := t.v, pc := s.pc + 2 })

/-- R82: `8XY0` copies `V[y]` to `V[x]`. -/
def Obligations.MoveCopiesTheRegister : Prop :=
  ∀ (s : State) (x y : Nibble), EncodedAs (.move x y) (0x8000 + x.toNat * 256 + y.toNat * 16) ∧
    ∃ t, exec (.move x y) s = .next t ∧ (∀ r, t.reg r = if r = x then s.reg y else s.reg r) ∧
      t = { s with v := t.v, pc := s.pc + 2 }

/-- R83, R84, R85: OR, AND and XOR work bit by bit and write no flag. -/
def Obligations.LogicInstructionsWorkBitByBit : Prop :=
  ∀ (s : State) (x y : Nibble),
    EncodedAs (.orReg x y) (0x8001 + x.toNat * 256 + y.toNat * 16) ∧
    EncodedAs (.andReg x y) (0x8002 + x.toNat * 256 + y.toNat * 16) ∧
    EncodedAs (.xorReg x y) (0x8003 + x.toNat * 256 + y.toNat * 16) ∧
    (∃ t, exec (.orReg x y) s = .next t ∧
      (∀ b, (t.reg x).getLsbD b = ((s.reg x).getLsbD b || (s.reg y).getLsbD b)) ∧
      (∀ r, r ≠ x → t.reg r = s.reg r) ∧ t = { s with v := t.v, pc := s.pc + 2 }) ∧
    (∃ t, exec (.andReg x y) s = .next t ∧
      (∀ b, (t.reg x).getLsbD b = ((s.reg x).getLsbD b && (s.reg y).getLsbD b)) ∧
      (∀ r, r ≠ x → t.reg r = s.reg r) ∧ t = { s with v := t.v, pc := s.pc + 2 }) ∧
    (∃ t, exec (.xorReg x y) s = .next t ∧
      (∀ b, (t.reg x).getLsbD b = ((s.reg x).getLsbD b ^^ (s.reg y).getLsbD b)) ∧
      (∀ r, r ≠ x → t.reg r = s.reg r) ∧ t = { s with v := t.v, pc := s.pc + 2 })

/-- R86: `8XY4` adds modulo 256; VF is the carry, also where VF is the destination. -/
def Obligations.AddWritesSumAndCarry : Prop :=
  ∀ (s : State) (x y : Nibble), EncodedAs (.addReg x y) (0x8004 + x.toNat * 256 + y.toNat * 16) ∧
    ∃ t, exec (.addReg x y) s = .next t ∧
      t.reg 0xF = (if 256 ≤ (s.reg x).toNat + (s.reg y).toNat then 0x01 else 0x00) ∧
      (x ≠ 0xF → (t.reg x).toNat = ((s.reg x).toNat + (s.reg y).toNat) % 256) ∧
      (∀ r, r ≠ x → r ≠ 0xF → t.reg r = s.reg r) ∧ t = { s with v := t.v, pc := s.pc + 2 }

/-- R87, R89: `8XY5` is `V[x] - V[y]` and `8XY7` is `V[y] - V[x]`, modulo 256; VF is 1 iff there is no borrow,
also where VF is the destination (the direction of `8XY7` is the spec's general knowledge, G6). -/
def Obligations.SubtractionsWriteDifferenceAndNoBorrow : Prop :=
  ∀ (s : State) (x y : Nibble),
    EncodedAs (.sub x y) (0x8005 + x.toNat * 256 + y.toNat * 16) ∧
    EncodedAs (.subN x y) (0x8007 + x.toNat * 256 + y.toNat * 16) ∧
    (∃ t, exec (.sub x y) s = .next t ∧
      t.reg 0xF = (if (s.reg y).toNat ≤ (s.reg x).toNat then 0x01 else 0x00) ∧
      (x ≠ 0xF → (t.reg x).toNat = ((s.reg x).toNat + 256 - (s.reg y).toNat) % 256) ∧
      (∀ r, r ≠ x → r ≠ 0xF → t.reg r = s.reg r) ∧ t = { s with v := t.v, pc := s.pc + 2 }) ∧
    (∃ t, exec (.subN x y) s = .next t ∧
      t.reg 0xF = (if (s.reg x).toNat ≤ (s.reg y).toNat then 0x01 else 0x00) ∧
      (x ≠ 0xF → (t.reg x).toNat = ((s.reg y).toNat + 256 - (s.reg x).toNat) % 256) ∧
      (∀ r, r ≠ x → r ≠ 0xF → t.reg r = s.reg r) ∧ t = { s with v := t.v, pc := s.pc + 2 })

/-- R88, R90: the shifts by one of `V[x]`, or of `V[y]` in legacy mode; VF is the bit shifted out, also where
VF is the destination. -/
def Obligations.ShiftsWriteResultAndShiftedOutBit : Prop :=
  ∀ (s : State) (x y : Nibble) (b : Byte), b = (if s.param.shiftSrcLegacy then s.reg y else s.reg x) →
    EncodedAs (.shiftRight x y) (0x8006 + x.toNat * 256 + y.toNat * 16) ∧
    EncodedAs (.shiftLeft x y) (0x800E + x.toNat * 256 + y.toNat * 16) ∧
    (∃ t, exec (.shiftRight x y) s = .next t ∧ (t.reg 0xF).toNat = b.toNat % 2 ∧
      (x ≠ 0xF → (t.reg x).toNat = b.toNat / 2) ∧
      (∀ r, r ≠ x → r ≠ 0xF → t.reg r = s.reg r) ∧ t = { s with v := t.v, pc := s.pc + 2 }) ∧
    (∃ t, exec (.shiftLeft x y) s = .next t ∧ (t.reg 0xF).toNat = b.toNat / 128 ∧
      (x ≠ 0xF → (t.reg x).toNat = b.toNat * 2 % 256) ∧
      (∀ r, r ≠ x → r ≠ 0xF → t.reg r = s.reg r) ∧ t = { s with v := t.v, pc := s.pc + 2 })

/-- R91: `CXNN` writes the random byte of this step, which `rnd` holds while the step runs (log 2), under the mask
`nn`. -/
def Obligations.RandomWritesTheMaskedInputByte : Prop :=
  ∀ (s : State) (x : Nibble) (nn : Byte), EncodedAs (.random x nn) (0xC000 + x.toNat * 256 + nn.toNat) ∧
    ∃ t, exec (.random x nn) s = .next t ∧
      (∀ b, (t.reg x).getLsbD b = (s.rnd.getLsbD b && nn.getLsbD b)) ∧
      (∀ r, r ≠ x → t.reg r = s.reg r) ∧ t = { s with v := t.v, pc := s.pc + 2 }

/-- R11: VF changes only by an instruction that sets the flag or has VF as its destination. -/
def Obligations.OnlyFlagSettersAndDestinationsChangeVF : Prop :=
  ∀ (i : Instr) (s t : State), exec i s = .next t → t.reg 0xF ≠ s.reg 0xF →
    (∃ x y, i = .addReg x y ∨ i = .sub x y ∨ i = .subN x y ∨ i = .shiftRight x y ∨ i = .shiftLeft x y) ∨
    (∃ x y n, i = .draw x y n) ∨ (∃ x, i = .addIndex x ∧ s.cfg.indexAddCarry = true) ∨
    (∃ nn, i = .loadImm 0xF nn ∨ i = .addImm 0xF nn ∨ i = .random 0xF nn) ∨
    (∃ y, i = .move 0xF y ∨ i = .orReg 0xF y ∨ i = .andReg 0xF y ∨ i = .xorReg 0xF y) ∨
    i = .getDelay 0xF ∨ i = .loadRegs 0xF

/-! ## Index register and memory (spec/42_index_and_memory.md) -/

/-- R95: `ANNN` sets `I` to `nnn`. -/
def Obligations.LoadIndexSetsTheAddress : Prop :=
  ∀ (s : State) (nnn : Addr), EncodedAs (.loadIndex nnn) (0xA000 + nnn.toNat) ∧
    ∃ t, exec (.loadIndex nnn) s = .next t ∧ t.index.toNat = nnn.toNat ∧
      t = { s with index := t.index, pc := s.pc + 2 }

/-- R96: `FX1E` adds modulo 4096; in carry mode VF is the overflow, otherwise no register changes. -/
def Obligations.AddIndexWrapsAndReportsOverflowInCarryMode : Prop :=
  ∀ (s : State) (x : Nibble), EncodedAs (.addIndex x) (0xF01E + x.toNat * 256) ∧
    ∃ t, exec (.addIndex x) s = .next t ∧ t.index.toNat = (s.index.toNat + (s.reg x).toNat) % 4096 ∧
      (∀ r, t.reg r = if s.cfg.indexAddCarry ∧ r = 0xF then
        (if 4096 ≤ s.index.toNat + (s.reg x).toNat then 0x01 else 0x00) else s.reg r) ∧
      t = { s with v := t.v, index := t.index, pc := s.pc + 2 }

/-- R97, R137: with a well-formed configuration (R5) `FX29` sets `I` to `font_start + 5 * V[x]` for a digit,
and raises `DigitRange` for a larger value. -/
def Obligations.FontAddrPointsAtTheGlyphOfADigit : Prop :=
  ∀ (s : State) (x : Nibble), EncodedAs (.fontAddr x) (0xF029 + x.toNat * 256) ∧
    (s.cfg.fontStart.toNat ≤ 0x0FB0 → (s.reg x).toNat ≤ 0x0F →
      ∃ t, exec (.fontAddr x) s = .next t ∧ t.index.toNat = s.cfg.fontStart.toNat + 5 * (s.reg x).toNat ∧
        t = { s with index := t.index, pc := s.pc + 2 }) ∧
    (0x0F < (s.reg x).toNat →
      exec (.fontAddr x) s = .next { s with fault := ⟨true, 7, s.pc, (s.reg x).setWidth 16⟩ })

/-- R98: with `I <= 0x0FFD`, `FX33` stores hundreds, tens and ones at `I`, `I+1`, `I+2` and no other byte (the order of the digits
is the spec's general knowledge, G7). -/
def Obligations.BcdStoresThreeDecimalDigits : Prop :=
  ∀ (s : State) (x : Nibble), EncodedAs (.bcd x) (0xF033 + x.toNat * 256) ∧
    (Memory.wf s.mem = true → s.index.toNat ≤ 0x0FFD →
      ∃ t, exec (.bcd x) s = .next t ∧
        (∀ a, (Memory.read t.mem a).toNat =
          if a = s.index.toNat then (s.reg x).toNat / 100
          else if a = s.index.toNat + 1 then (s.reg x).toNat / 10 % 10
          else if a = s.index.toNat + 2 then (s.reg x).toNat % 10
          else (Memory.read s.mem a).toNat) ∧
        t = { s with mem := t.mem, pc := s.pc + 2 }) ∧
    (0x0FFD < s.index.toNat → exec (.bcd x) s = .next { s with fault := ⟨true, 5, s.pc, 0x1000⟩ })

/-- R99: with `I + x <= 0x0FFF`, `FX55` stores `V[k]` at `I + k` for `k` from 0 to `x` and no other byte; `I`
advances by `x + 1` modulo 4096 in legacy mode only (the range `V[0]` to `V[x]` is the spec's general knowledge,
G8). -/
def Obligations.SaveRegsStoresTheRegisterBlock : Prop :=
  ∀ (s : State) (x : Nibble), EncodedAs (.saveRegs x) (0xF055 + x.toNat * 256) ∧
    (Memory.wf s.mem = true → s.index.toNat + x.toNat ≤ 0x0FFF →
      ∃ t, exec (.saveRegs x) s = .next t ∧
        (∀ r : Nibble, r.toNat ≤ x.toNat → Memory.read t.mem (s.index.toNat + r.toNat) = s.reg r) ∧
        (∀ a, a < s.index.toNat ∨ s.index.toNat + x.toNat < a → Memory.read t.mem a = Memory.read s.mem a) ∧
        t.index.toNat = (if s.cfg.regSaveLegacy then (s.index.toNat + x.toNat + 1) % 4096 else s.index.toNat) ∧
        t = { s with mem := t.mem, index := t.index, pc := s.pc + 2 }) ∧
    (0x0FFF < s.index.toNat + x.toNat →
      exec (.saveRegs x) s = .next { s with fault := ⟨true, 5, s.pc, 0x1000⟩ })

/-- R100: with `I + x <= 0x0FFF`, `FX65` loads `V[k]` from `I + k` for `k` from 0 to `x` and no other register;
`I` advances by `x + 1` modulo 4096 in legacy mode only (the range `V[0]` to `V[x]` is the spec's general
knowledge, G8). -/
def Obligations.LoadRegsLoadsTheRegisterBlock : Prop :=
  ∀ (s : State) (x : Nibble), EncodedAs (.loadRegs x) (0xF065 + x.toNat * 256) ∧
    (s.index.toNat + x.toNat ≤ 0x0FFF →
      ∃ t, exec (.loadRegs x) s = .next t ∧
        (∀ r : Nibble, t.reg r =
          if r.toNat ≤ x.toNat then Memory.read s.mem (s.index.toNat + r.toNat) else s.reg r) ∧
        t.index.toNat = (if s.cfg.regSaveLegacy then (s.index.toNat + x.toNat + 1) % 4096 else s.index.toNat) ∧
        t = { s with v := t.v, index := t.index, pc := s.pc + 2 }) ∧
    (0x0FFF < s.index.toNat + x.toNat →
      exec (.loadRegs x) s = .next { s with fault := ⟨true, 5, s.pc, 0x1000⟩ })

/-- R99, R100: without the legacy option, a block saved and loaded back at the same `I` restores the saved
registers, whatever the registers held in between. -/
def Obligations.SavedRegistersComeBackWhenLoaded : Prop :=
  ∀ (s t u : State) (x : Nibble) (w : Vector Byte 16), Memory.wf s.mem = true → s.cfg.regSaveLegacy = false →
    s.index.toNat + x.toNat ≤ 0x0FFF →
    exec (.saveRegs x) s = .next t → exec (.loadRegs x) { t with v := w } = .next u →
    ∀ r : Nibble, r.toNat ≤ x.toNat → u.reg r = s.reg r

/-- R40: the word formed by the bytes that `FX55` stored at an address is the one the very next `Step` executes
when `pc` stands at that address, with no fence or delay (event list and life cycle: logs 1, 4). -/
def Obligations.StoredBytesAreFetchedByTheNextStep : Prop :=
  ∀ (s t u : State) (x : Nibble) (keys : Word) (rnd : Byte) (i : Instr),
    Memory.wf s.mem = true → 1 ≤ x.toNat → s.index.toNat + x.toNat ≤ 0x0FFF → exec (.saveRegs x) s = .next t →
    u.mem = t.mem → u.pc = s.index → u.Ready → u.nextEvent = .step keys rnd →
    decode (BitVec.ofNat 16 ((s.reg 0).toNat * 256 + (s.reg 1).toNat)) = .known i →
    step u = exec i (u.started keys rnd)

/-- R20, R36: canonical memories that read alike at every address are the same memory. -/
def Obligations.MemoriesThatReadAlikeAreEqual : Prop :=
  ∀ m m' : Memory, Memory.wf m = true → Memory.wf m' = true →
    (∀ a, a < 4096 → Memory.read m a = Memory.read m' a) → m = m'

/-! ## Display (spec/43_display.md) -/

/-- R105, R108: `00E0` darkens every pixel and changes nothing else but `pc`. -/
def Obligations.ClearDisplayDarkensEveryPixel : Prop :=
  EncodedAs .clearDisplay 0x00E0 ∧
  ∀ s : State, ∃ t, exec .clearDisplay s = .next t ∧ (∀ row col, Frame.pixel t.fb row col = false) ∧
    t = { s with fb := t.fb, pc := s.pc + 2 }

/-- R106, R109: a sprite that lies inside memory is XORed onto the buffer at wrapped coordinates, and VF is 1
iff some lit pixel went dark; one that does not raises `MemRange` (where the sprite's bytes lie and how their bits
are ordered is the spec's general knowledge, G4, G5). -/
def Obligations.DrawXorsTheSpriteAndReportsCollision : Prop :=
  ∀ (s : State) (x y n : Nibble),
    EncodedAs (.draw x y n) (0xD000 + x.toNat * 256 + y.toNat * 16 + n.toNat) ∧
    (n.toNat = 0 ∨ s.index.toNat + (n.toNat - 1) ≤ 0x0FFF →
      ∃ t, exec (.draw x y n) s = .next t ∧
        (∀ row col, row < 32 → col < 64 →
          Frame.pixel t.fb row col = (Frame.pixel s.fb row col ^^
            spriteCovers s.mem s.index.toNat n.toNat (s.reg x).toNat (s.reg y).toNat row col)) ∧
        (t.reg 0xF = 0x00 ∨ t.reg 0xF = 0x01) ∧
        (t.reg 0xF = 0x01 ↔ ∃ row col, row < 32 ∧ col < 64 ∧
          Frame.pixel s.fb row col = true ∧ Frame.pixel t.fb row col = false) ∧
        (∀ r, r ≠ 0xF → t.reg r = s.reg r) ∧
        t = { s with v := t.v, fb := t.fb, pc := s.pc + 2 }) ∧
    (0 < n.toNat → 0x0FFF < s.index.toNat + (n.toNat - 1) →
      exec (.draw x y n) s = .next { s with fault := ⟨true, 5, s.pc, 0x1000⟩ })

/-- R109: drawing the same sprite twice at the same place (with no coordinate in VF, which the first draw
writes) restores the buffer; from a clear display the first draw reports no collision and the second one
reports one iff the first lit a pixel. -/
def Obligations.DrawingTwiceRestoresTheDisplay : Prop :=
  ∀ (s t u : State) (x y n : Nibble), x ≠ 0xF → y ≠ 0xF →
    (n.toNat = 0 ∨ s.index.toNat + (n.toNat - 1) ≤ 0x0FFF) →
    exec (.draw x y n) s = .next t → exec (.draw x y n) t = .next u →
    u.fb = s.fb ∧
    ((∀ row col, Frame.pixel s.fb row col = false) → t.reg 0xF = 0x00 ∧ (u.reg 0xF = 0x01 ↔ t.fb ≠ s.fb))

/-! ## Keypad and timers (spec/44_keypad_and_timers.md) -/

/-- R113, R114, R136: `EX9E` and `EXA1` test the key numbered by the value of `V[x]`, in this step's `keys` (log 2); a value
above 0x0F raises `KeyRange`. -/
def Obligations.KeySkipsTestTheNumberedKey : Prop :=
  ∀ (s : State) (x : Nibble),
    EncodedAs (.skipKey x) (0xE09E + x.toNat * 256) ∧ EncodedAs (.skipNotKey x) (0xE0A1 + x.toNat * 256) ∧
    ((s.reg x).toNat ≤ 0x0F →
      (∃ t, exec (.skipKey x) s = .next t ∧
        t.pc = (if s.keys.getLsbD (s.reg x).toNat = true then s.pc + 4 else s.pc + 2) ∧ t = { s with pc := t.pc }) ∧
      (∃ t, exec (.skipNotKey x) s = .next t ∧
        t.pc = (if s.keys.getLsbD (s.reg x).toNat = true then s.pc + 2 else s.pc + 4) ∧ t = { s with pc := t.pc })) ∧
    (0x0F < (s.reg x).toNat →
      exec (.skipKey x) s = .next { s with fault := ⟨true, 6, s.pc, (s.reg x).setWidth 16⟩ } ∧
      exec (.skipNotKey x) s = .next { s with fault := ⟨true, 6, s.pc, (s.reg x).setWidth 16⟩ })

/-- R115: `FX0A` enters the wait state with `key_reg = x` and `pc` past it, and writes no general register,
whatever keys are pressed. -/
def Obligations.WaitKeyEntersTheWaitState : Prop :=
  ∀ (s : State) (x : Nibble), EncodedAs (.waitKey x) (0xF00A + x.toNat * 256) ∧
    ∃ t, exec (.waitKey x) s = .next t ∧ t.awaitingKey = true ∧ t.keyReg = x ∧
      t = { s with awaitingKey := t.awaitingKey, keyReg := t.keyReg, pc := s.pc + 2 }

/-- R116, R117, R118: `FX07` reads `DT` into `V[x]`, `FX15` sets `DT` and `FX18` sets `ST` from `V[x]` (which code does
which is the spec's general knowledge, G9). -/
def Obligations.TimerInstructionsMoveTheirTimer : Prop :=
  ∀ (s : State) (x : Nibble),
    EncodedAs (.getDelay x) (0xF007 + x.toNat * 256) ∧ EncodedAs (.setDelay x) (0xF015 + x.toNat * 256) ∧
    EncodedAs (.setSound x) (0xF018 + x.toNat * 256) ∧
    (∃ t, exec (.getDelay x) s = .next t ∧ (∀ r, t.reg r = if r = x then s.dt else s.reg r) ∧
      t = { s with v := t.v, pc := s.pc + 2 }) ∧
    (∃ t, exec (.setDelay x) s = .next t ∧ t.dt = s.reg x ∧ t = { s with dt := t.dt, pc := s.pc + 2 }) ∧
    (∃ t, exec (.setSound x) s = .next t ∧ t.st = s.reg x ∧ t = { s with st := t.st, pc := s.pc + 2 })

/-! ## Who writes what: the frame of every instruction -/

/-- R30: no instruction but `FX33` and `FX55` changes a byte of memory. -/
def Obligations.OnlyStoresChangeMemory : Prop :=
  ∀ (i : Instr) (s t : State), exec i s = .next t → (∀ x, i ≠ .bcd x ∧ i ≠ .saveRegs x) →
    ∀ a, Memory.read t.mem a = Memory.read s.mem a

/-- R14, R16, R19, R21: the stack changes only by `2NNN` (and `sp` by `00EE`), the frame buffer only by `00E0`
and `DXYN`, a timer only by `FX15` or `FX18`, the wait state only by `FX0A`. -/
def Obligations.StackDisplayTimersAndWaitHaveTheirOwnWriters : Prop :=
  ∀ (i : Instr) (s t : State), exec i s = .next t →
    ((∀ nnn, i ≠ .call nnn) → t.stack = s.stack ∧ (i ≠ .ret → t.sp = s.sp)) ∧
    (i ≠ .clearDisplay → (∀ x y n, i ≠ .draw x y n) → t.fb = s.fb) ∧
    ((∀ x, i ≠ .setDelay x) → t.dt = s.dt) ∧ ((∀ x, i ≠ .setSound x) → t.st = s.st) ∧
    ((∀ x, i ≠ .waitKey x) → t.awaitingKey = s.awaitingKey ∧ t.keyReg = s.keyReg)

/-- R12: `I` changes only by `ANNN`, `FX1E`, `FX29` and, in legacy mode, `FX55` and `FX65`; with a well-formed
configuration (R5) what is written is below 4096. -/
def Obligations.IndexHasItsOwnWritersAndStaysBelow4096 : Prop :=
  ∀ (i : Instr) (s t : State), exec i s = .next t →
    ((∀ nnn, i ≠ .loadIndex nnn) → (∀ x, i ≠ .addIndex x ∧ i ≠ .fontAddr x) →
      (s.cfg.regSaveLegacy = true → ∀ x, i ≠ .saveRegs x ∧ i ≠ .loadRegs x) → t.index = s.index) ∧
    (s.cfg.fontStart.toNat ≤ 0x0FB0 → t.index ≠ s.index → t.index.toNat ≤ 0x0FFF)

/-- R5, R17: no event but `Reset` changes the configuration, and none the build's parameter (both stand in State by the
model's choice, log 3; the list of events is log 1). -/
def Obligations.OnlyResetChangesTheConfiguration : Prop :=
  ∀ s t : State, step s = .next t →
    t.param = s.param ∧ ((∀ c, s.nextEvent ≠ .reset c) → t.cfg = s.cfg)

/-! ## Whole-machine statements -/

/-- R164: at the end of a run every further `Step` leaves the spec's state as it is, at the end of the run
(event list and life cycle: logs 1, 4). -/
def Obligations.EndOfRunRepeatsForEver : Prop :=
  ∀ (s : State) (keys : Word) (rnd : Byte), s.atEnd = true → s.phase ≠ .loadFailed → s.nextEvent = .step keys rnd →
    step s = .next (s.started keys rnd) ∧ (s.started keys rnd).atEnd = true

/-- R26, with what R5, R18 and R41 add: the invariants hold after reset. -/
def Obligations.InvariantsHoldAfterReset : Prop := State.reset.Inv

/-- R26, with what R5, R18 and R41 add (the phase is log 4, the free bytes of a failed load are log 5): every event keeps the invariants, from every state that has them. -/
def Obligations.EveryStepKeepsTheInvariants : Prop :=
  ∀ s t : State, s.Inv → step s = .next t → t.Inv
end

