-- ==== Sys2Proof/Laws/Decode.lean ====
section
/-!
SUPPORT. The fields of an encoded word (spec/30_encoding.md R51, R62): every field of a format comes back.
-/

namespace Sys2Proof

/-! ## Fields -/

theorem fieldMajor_toNat (w : Word) : (fieldMajor w).toNat = w.toNat / 4096 := by
  have := w.isLt
  simp only [fieldMajor, BitVec.extractLsb'_toNat, Nat.shiftRight_eq_div_pow]
  omega

theorem fieldX_toNat (w : Word) : (fieldX w).toNat = w.toNat / 256 % 16 := by
  simp [fieldX, Nat.shiftRight_eq_div_pow]

theorem fieldY_toNat (w : Word) : (fieldY w).toNat = w.toNat / 16 % 16 := by
  simp [fieldY, Nat.shiftRight_eq_div_pow]

theorem fieldN_toNat (w : Word) : (fieldN w).toNat = w.toNat % 16 := by
  simp [fieldN]

theorem fieldNN_toNat (w : Word) : (fieldNN w).toNat = w.toNat % 256 := by
  simp [fieldNN]

theorem fieldNNN_toNat (w : Word) : (fieldNNN w).toNat = w.toNat % 4096 := by
  simp [fieldNNN]

/-! ## Formats -/

theorem encodeA_toNat (n0 : Nibble) (nnn : Addr) : (encodeA n0 nnn).toNat = n0.toNat * 4096 + nnn.toNat := by
  have h : nnn.toNat < 2 ^ 12 := nnn.isLt
  simp only [encodeA, BitVec.toNat_append]
  rw [← Nat.shiftLeft_add_eq_or_of_lt h, Nat.shiftLeft_eq]

theorem encodeXI_toNat (n0 x : Nibble) (nn : Byte) :
    (encodeXI n0 x nn).toNat = n0.toNat * 4096 + x.toNat * 256 + nn.toNat := by
  have h1 : x.toNat < 2 ^ 4 := x.isLt
  have h2 : nn.toNat < 2 ^ 8 := nn.isLt
  simp only [encodeXI, BitVec.toNat_append]
  rw [← Nat.shiftLeft_add_eq_or_of_lt h1, ← Nat.shiftLeft_add_eq_or_of_lt h2, Nat.shiftLeft_eq, Nat.shiftLeft_eq]
  omega

theorem encodeXY_toNat (n0 x y n : Nibble) :
    (encodeXY n0 x y n).toNat = n0.toNat * 4096 + x.toNat * 256 + y.toNat * 16 + n.toNat := by
  have h1 : x.toNat < 2 ^ 4 := x.isLt
  have h2 : y.toNat < 2 ^ 4 := y.isLt
  have h3 : n.toNat < 2 ^ 4 := n.isLt
  simp only [encodeXY, BitVec.toNat_append]
  rw [← Nat.shiftLeft_add_eq_or_of_lt h1, ← Nat.shiftLeft_add_eq_or_of_lt h2, ← Nat.shiftLeft_add_eq_or_of_lt h3,
    Nat.shiftLeft_eq, Nat.shiftLeft_eq, Nat.shiftLeft_eq]
  omega

@[simp] theorem fieldMajor_encodeA (n0 : Nibble) (nnn : Addr) : fieldMajor (encodeA n0 nnn) = n0 := by
  have := nnn.isLt
  apply BitVec.eq_of_toNat_eq
  rw [fieldMajor_toNat, encodeA_toNat]
  omega

@[simp] theorem fieldNNN_encodeA (n0 : Nibble) (nnn : Addr) : fieldNNN (encodeA n0 nnn) = nnn := by
  have := nnn.isLt
  apply BitVec.eq_of_toNat_eq
  rw [fieldNNN_toNat, encodeA_toNat]
  omega

@[simp] theorem fieldMajor_encodeXI (n0 x : Nibble) (nn : Byte) : fieldMajor (encodeXI n0 x nn) = n0 := by
  have := x.isLt
  have := nn.isLt
  apply BitVec.eq_of_toNat_eq
  rw [fieldMajor_toNat, encodeXI_toNat]
  omega

@[simp] theorem fieldX_encodeXI (n0 x : Nibble) (nn : Byte) : fieldX (encodeXI n0 x nn) = x := by
  have := x.isLt
  have := nn.isLt
  apply BitVec.eq_of_toNat_eq
  rw [fieldX_toNat, encodeXI_toNat]
  omega

@[simp] theorem fieldNN_encodeXI (n0 x : Nibble) (nn : Byte) : fieldNN (encodeXI n0 x nn) = nn := by
  have := nn.isLt
  apply BitVec.eq_of_toNat_eq
  rw [fieldNN_toNat, encodeXI_toNat]
  omega

@[simp] theorem fieldMajor_encodeXY (n0 x y n : Nibble) : fieldMajor (encodeXY n0 x y n) = n0 := by
  have := x.isLt
  have := y.isLt
  have := n.isLt
  apply BitVec.eq_of_toNat_eq
  rw [fieldMajor_toNat, encodeXY_toNat]
  omega

@[simp] theorem fieldX_encodeXY (n0 x y n : Nibble) : fieldX (encodeXY n0 x y n) = x := by
  have := x.isLt
  have := y.isLt
  have := n.isLt
  apply BitVec.eq_of_toNat_eq
  rw [fieldX_toNat, encodeXY_toNat]
  omega

@[simp] theorem fieldY_encodeXY (n0 x y n : Nibble) : fieldY (encodeXY n0 x y n) = y := by
  have := y.isLt
  have := n.isLt
  apply BitVec.eq_of_toNat_eq
  rw [fieldY_toNat, encodeXY_toNat]
  omega

@[simp] theorem fieldN_encodeXY (n0 x y n : Nibble) : fieldN (encodeXY n0 x y n) = n := by
  have := n.isLt
  apply BitVec.eq_of_toNat_eq
  rw [fieldN_toNat, encodeXY_toNat]
  omega

/-! ## Masks (R55) -/

theorem encodeA_and (n0 m0 : Nibble) (nnn mnnn : Addr) :
    encodeA n0 nnn &&& encodeA m0 mnnn = encodeA (n0 &&& m0) (nnn &&& mnnn) :=
  BitVec.and_append

theorem encodeXI_and (n0 x m0 mx : Nibble) (nn mnn : Byte) :
    encodeXI n0 x nn &&& encodeXI m0 mx mnn = encodeXI (n0 &&& m0) (x &&& mx) (nn &&& mnn) :=
  BitVec.and_append.trans (congrArg (· ++ (nn &&& mnn)) BitVec.and_append)

theorem encodeXY_and (n0 x y n m0 mx my mn : Nibble) :
    encodeXY n0 x y n &&& encodeXY m0 mx my mn = encodeXY (n0 &&& m0) (x &&& mx) (y &&& my) (n &&& mn) :=
  BitVec.and_append.trans (congrArg (· ++ (n &&& mn))
    (BitVec.and_append.trans (congrArg (· ++ (y &&& my)) BitVec.and_append)))

theorem nibble_and_ones (a : Nibble) : a &&& 0xF = a := BitVec.and_allOnes
theorem nibble_and_zero (a : Nibble) : a &&& 0x0 = 0 := BitVec.and_zero
theorem byte_and_ones (a : Byte) : a &&& 0xFF = a := BitVec.and_allOnes
theorem byte_and_zero (a : Byte) : a &&& 0x00 = 0 := BitVec.and_zero
theorem addr_and_zero (a : Addr) : a &&& 0x000 = 0 := BitVec.and_zero

/-- A word of format `A` selects its row: the mask keeps `n0` alone. -/
theorem encodeA_masked (n0 : Nibble) (nnn : Addr) : encodeA n0 nnn &&& 0xF000 = encodeA n0 0 := by
  rw [show (0xF000 : Word) = encodeA 0xF 0 from rfl, encodeA_and, nibble_and_ones, addr_and_zero]

/-- A word of format `XI` selects its row: the mask keeps `n0` alone. -/
theorem encodeXI_masked (n0 x : Nibble) (nn : Byte) : encodeXI n0 x nn &&& 0xF000 = encodeXI n0 0 0 := by
  rw [show (0xF000 : Word) = encodeXI 0xF 0 0 from rfl, encodeXI_and, nibble_and_ones, nibble_and_zero,
    byte_and_zero]

/-- A word of format `XF` selects its row: the mask keeps `n0` and `nn`. -/
theorem encodeXF_masked (n0 x : Nibble) (nn : Byte) : encodeXI n0 x nn &&& 0xF0FF = encodeXI n0 0 nn := by
  rw [show (0xF0FF : Word) = encodeXI 0xF 0 0xFF from rfl, encodeXI_and, nibble_and_ones, nibble_and_zero,
    byte_and_ones]

/-- A word of format `XY` selects its row: the mask keeps `n0` and `n`. -/
theorem encodeXY_masked (n0 x y n : Nibble) : encodeXY n0 x y n &&& 0xF00F = encodeXY n0 0 0 n := by
  rw [show (0xF00F : Word) = encodeXY 0xF 0 0 0xF from rfl, encodeXY_and, nibble_and_ones, nibble_and_zero,
    nibble_and_zero, nibble_and_ones]

/-- A word of format `XYN` selects its row: the mask keeps `n0` alone. -/
theorem encodeXYN_masked (n0 x y n : Nibble) : encodeXY n0 x y n &&& 0xF000 = encodeXY n0 0 0 0 := by
  rw [show (0xF000 : Word) = encodeXY 0xF 0 0 0 from rfl, encodeXY_and, nibble_and_ones, nibble_and_zero,
    nibble_and_zero, nibble_and_zero]

/-! ## Bytes (R33, R62) -/

/-- The two bytes of a word, read back high byte first, are the word. -/
@[simp] theorem wordOfBytes_wordBytes (w : Word) :
    wordOfBytes (w.extractLsb' 8 8) (w.extractLsb' 0 8) = w := by
  have := w.isLt
  apply BitVec.eq_of_toNat_eq
  have h : (w.extractLsb' 0 8).toNat < 2 ^ 8 := (w.extractLsb' 0 8).isLt
  simp only [wordOfBytes, BitVec.toNat_append]
  rw [← Nat.shiftLeft_add_eq_or_of_lt h, Nat.shiftLeft_eq]
  simp only [BitVec.extractLsb'_toNat, Nat.shiftRight_eq_div_pow]
  omega

/-- The high byte counts 256 times (R33). -/
theorem wordOfBytes_toNat (hi lo : Byte) : (wordOfBytes hi lo).toNat = hi.toNat * 256 + lo.toNat := by
  have h : lo.toNat < 2 ^ 8 := lo.isLt
  simp only [wordOfBytes, BitVec.toNat_append]
  rw [← Nat.shiftLeft_add_eq_or_of_lt h, Nat.shiftLeft_eq]

/-- The decoder on bytes is the decoder on the word they form (R33, R50). -/
theorem decodeBytes_cons (hi lo : Byte) (rest : List Byte) :
    decodeBytes (hi :: lo :: rest) =
      match decode (wordOfBytes hi lo) with
      | .known i => .ok (i, rest)
      | .unknown w => .error (.unknownOpcode w) := rfl

/-- Everything `decode` can answer. -/
theorem decode_eq_known {w : Word} {i : Instr} : decode w = .known i ↔ decodeInstr w = some i := by
  unfold decode
  split <;> simp_all

theorem decode_eq_unknown {w u : Word} : decode w = .unknown u ↔ u = w ∧ decodeInstr w = none := by
  unfold decode
  split
  · simp_all
  · simp_all [eq_comm]

end Sys2Proof
end

