-- ==== Sys2Proof/Laws/Display.lean ====
section
/-!
SUPPORT. The laws of the display surface, pixel by pixel (spec/43_display.md R108, R109).
-/

namespace Sys2Proof.Machine

@[simp] theorem Frame.pixel_cleared (row col : Nat) : Frame.pixel Frame.cleared row col = false := by
  unfold Frame.pixel Frame.cleared
  split <;> simp

/-- Inverting a pixel of the buffer inverts that pixel and no other. -/
theorem Frame.pixel_flip (fb : Frame) {row col : Nat} (hr : row < 32) (hc : col < 64) (row' col' : Nat) :
    Frame.pixel (Frame.flip fb row col) row' col' =
      (Frame.pixel fb row' col' != decide (row' = row ∧ col' = col)) := by
  unfold Frame.pixel Frame.flip
  simp only [dif_pos hr]
  by_cases hr' : row' < 32
  · simp only [dif_pos hr', Vector.getElem_set]
    by_cases hrr : row = row'
    · subst hrr
      by_cases hcc : col' = col
      · subst hcc
        simp [hc]
      · have : ¬ col = col' := fun e => hcc e.symm
        simp [hcc, this]
    · have : ¬ row' = row := fun e => hrr e.symm
      simp [hrr, this]
  · have : ¬ row' = row := fun e => hr' (e ▸ hr)
    simp [hr', this]

/-- Two buffers with the same pixels are the same buffer. -/
theorem Frame.ext_pixel {fb fb' : Frame} (h : ∀ row < 32, ∀ col < 64, Frame.pixel fb row col = Frame.pixel fb' row col) :
    fb = fb' := by
  apply Vector.ext
  intro row hr
  apply BitVec.eq_of_getLsbD_eq
  intro col hc
  simpa [Frame.pixel, hr] using h row hr col hc

/-- A drawn 1 bit inverts its wrapped pixel and no other. -/
theorem drawPixel_pixel (x y r c : Nat) (acc : Frame × Bool) (row col : Nat) :
    Frame.pixel (drawPixel x y r c acc).1 row col =
      (Frame.pixel acc.1 row col != decide (row = (y + r) % 32 ∧ col = (x + c) % 64)) :=
  Frame.pixel_flip acc.1 (Nat.mod_lt _ (by decide)) (Nat.mod_lt _ (by decide)) row col

/-- A drawn 1 bit collides iff its wrapped pixel was lit. -/
theorem drawPixel_collided (x y r c : Nat) (acc : Frame × Bool) :
    (drawPixel x y r c acc).2 = (acc.2 || Frame.pixel acc.1 ((y + r) % 32) ((x + c) % 64)) := rfl

end Sys2Proof.Machine
end

