-- ==== Sys2Proof/Laws/Memory.lean ====
section
/-!
SUPPORT. The laws of memory (spec/20_memory.md R32, R36): reads after writes, and that every operation keeps
the canonical form.
-/

namespace Sys2Proof.Machine

@[simp] theorem Memory.read_nil (a : Nat) : Memory.read [] a = 0 := rfl

/-! ## Canonical form -/

theorem Memory.wfFrom_cons {lo a : Nat} {b : Byte} {m : List Host.Cell} :
    Memory.wfFrom lo ((a, b) :: m) = true ↔
      lo ≤ a ∧ a < memSize ∧ b ≠ Memory.unlisted ∧ Memory.wfFrom (a + 1) m = true := by
  simp [Memory.wfFrom, and_assoc]

theorem Memory.wfFrom_mono {lo lo' : Nat} {m : List Host.Cell} (hle : lo' ≤ lo)
    (h : Memory.wfFrom lo m = true) : Memory.wfFrom lo' m = true := by
  cases m with
  | nil => rfl
  | cons c m =>
    obtain ⟨h1, h2⟩ := Memory.wfFrom_cons.mp h
    exact Memory.wfFrom_cons.mpr ⟨hle.trans h1, h2⟩

/-- No listed address lies below the bound. -/
theorem Memory.read_below {lo a : Nat} {m : List Host.Cell} (h : Memory.wfFrom lo m = true) (ha : a < lo) :
    Memory.read m a = Memory.unlisted := by
  induction m generalizing lo with
  | nil => rfl
  | cons c m ih =>
    obtain ⟨h1, -, -, h4⟩ := Memory.wfFrom_cons.mp h
    have hne : a ≠ c.1 := by omega
    simp only [Memory.read, if_neg hne]
    exact ih h4 (by omega)

/-- No address outside memory is listed (R32). -/
theorem Memory.read_outside {m : Memory} {a : Nat} (h : Memory.wf m = true) (ha : memSize ≤ a) :
    Memory.read m a = Memory.unlisted := by
  unfold Memory.wf at h
  generalize 0 = lo at h
  induction m generalizing lo with
  | nil => rfl
  | cons c m ih =>
    obtain ⟨-, h2, -, h4⟩ := Memory.wfFrom_cons.mp h
    have hne : a ≠ c.1 := by omega
    simp only [Memory.read, if_neg hne]
    exact ih _ h4

theorem Memory.put_wfFrom {lo a : Nat} {b : Byte} {m : List Host.Cell} (h : Memory.wfFrom lo m = true)
    (hlo : lo ≤ a) (ha : a < memSize) : Memory.wfFrom lo (Memory.put m a b) = true := by
  induction m generalizing lo with
  | nil =>
    unfold Memory.put
    split
    · rfl
    · exact Memory.wfFrom_cons.mpr ⟨hlo, ha, ‹_›, rfl⟩
  | cons c m ih =>
    obtain ⟨h1, h2, h3, h4⟩ := Memory.wfFrom_cons.mp h
    simp only [Memory.put]
    split
    · split
      · exact h
      · exact Memory.wfFrom_cons.mpr ⟨hlo, ha, ‹_›, Memory.wfFrom_cons.mpr ⟨by omega, h2, h3, h4⟩⟩
    · split
      · subst_vars
        split
        · exact Memory.wfFrom_mono (by omega) h4
        · exact Memory.wfFrom_cons.mpr ⟨h1, ha, ‹_›, h4⟩
      · exact Memory.wfFrom_cons.mpr ⟨h1, h2, h3, ih h4 (by omega)⟩

/-- A store keeps the canonical form. -/
theorem Memory.write_wf {m : Memory} (a : Nat) (b : Byte) (h : Memory.wf m = true) :
    Memory.wf (Memory.write m a b) = true := by
  unfold Memory.write
  split
  · exact Memory.put_wfFrom h (Nat.zero_le _) ‹_›
  · exact h

/-- A block store keeps the canonical form. -/
theorem Memory.writeBlock_wf {m : Memory} (a : Nat) (bs : List Byte) (h : Memory.wf m = true) :
    Memory.wf (Memory.writeBlock m a bs) = true := by
  induction bs generalizing m a with
  | nil => exact h
  | cons b bs ih => exact ih _ (Memory.write_wf a b h)

/-! ## Reads after writes -/

theorem Memory.read_put {lo : Nat} {m : List Host.Cell} (h : Memory.wfFrom lo m = true) (a : Nat) (b : Byte)
    (a' : Nat) : Memory.read (Memory.put m a b) a' = if a' = a then b else Memory.read m a' := by
  induction m generalizing lo with
  | nil =>
    unfold Memory.put
    split <;> simp_all [Memory.read]
  | cons c m ih =>
    obtain ⟨-, -, -, h4⟩ := Memory.wfFrom_cons.mp h
    obtain ⟨c1, c2⟩ := c
    simp only at h4
    simp only [Memory.put]
    split
    · rename_i hlt
      split
      · rename_i hb
        split
        · rename_i haa
          subst haa hb
          exact Memory.read_below (m := (c1, c2) :: m) (lo := c1)
            (Memory.wfFrom_cons.mpr ⟨le_refl _, (Memory.wfFrom_cons.mp h).2⟩) hlt
        · rfl
      · simp [Memory.read]
    · split
      · rename_i hnlt heq
        subst heq
        split
        · rename_i hb
          by_cases haa : a' = a
          · rw [if_pos haa, haa, hb]
            exact Memory.read_below h4 (Nat.lt_succ_self _)
          · simp [Memory.read, haa]
        · by_cases haa : a' = a <;> simp [Memory.read, haa]
      · rename_i hnlt hne
        simp only [Memory.read, ih h4]
        by_cases haa : a' = a
        · simp [haa, hne]
        · simp [haa]

/-- A read after a store: the byte stored at its address, and every other byte as before (R32, R36). -/
theorem Memory.read_write {m : Memory} (h : Memory.wf m = true) {a : Nat} (ha : a < memSize) (b : Byte)
    (a' : Nat) : Memory.read (Memory.write m a b) a' = if a' = a then b else Memory.read m a' := by
  rw [Memory.write, if_pos ha]
  exact Memory.read_put h a b a'

/-- A read after a block store that stays inside memory (R35, R36). -/
theorem Memory.read_writeBlock {m : Memory} (h : Memory.wf m = true) (a : Nat) (bs : List Byte)
    (hin : a + bs.length ≤ memSize) (a' : Nat) :
    Memory.read (Memory.writeBlock m a bs) a' =
      if a ≤ a' then (bs[a' - a]?).getD (Memory.read m a') else Memory.read m a' := by
  induction bs generalizing m a with
  | nil => simp [Memory.writeBlock]
  | cons b bs ih =>
    simp only [List.length_cons] at hin
    simp only [Memory.writeBlock]
    rw [ih (Memory.write_wf a b h) (a + 1) (by omega), Memory.read_write h (by omega)]
    rcases Nat.lt_trichotomy a' a with hlt | heq | hgt
    · have h1 : ¬ a + 1 ≤ a' := by omega
      have h2 : ¬ a ≤ a' := by omega
      have h3 : a' ≠ a := by omega
      simp [h1, h2, h3]
    · subst heq
      simp
    · have h1 : a + 1 ≤ a' := by omega
      have h2 : a ≤ a' := by omega
      have h3 : a' ≠ a := by omega
      have h4 : a' - a = (a' - (a + 1)) + 1 := by omega
      simp [h1, h2, h3, h4]

/-! ## Blocks -/

@[simp] theorem Memory.readBlock_length (m : Memory) (a n : Nat) : (Memory.readBlock m a n).length = n := by
  induction n generalizing a with
  | zero => rfl
  | succ n ih => simp [Memory.readBlock, ih]

/-- Byte `k` of a block is the byte at address `a + k` (R35). -/
theorem Memory.readBlock_getElem? (m : Memory) (a n k : Nat) :
    (Memory.readBlock m a n)[k]? = if k < n then some (Memory.read m (a + k)) else none := by
  induction n generalizing a k with
  | zero => simp [Memory.readBlock]
  | succ n ih =>
    cases k with
    | zero => simp [Memory.readBlock]
    | succ k =>
      simp only [Memory.readBlock, List.getElem?_cons_succ, ih]
      rw [show a + 1 + k = a + (k + 1) by omega]
      simp

/-- Every block read from the same bytes is the same. -/
theorem Memory.readBlock_congr {m m' : Memory} {a n : Nat}
    (h : ∀ k < n, Memory.read m (a + k) = Memory.read m' (a + k)) :
    Memory.readBlock m a n = Memory.readBlock m' a n := by
  apply List.ext_getElem?
  intro k
  rw [Memory.readBlock_getElem?, Memory.readBlock_getElem?]
  split
  · rw [h k ‹_›]
  · rfl

end Sys2Proof.Machine
end

