-- ==== Sys2Proof/Laws/State.lean ====
section
/-!
SUPPORT. What each update of the state does to each field, one lemma per field per update.
-/

namespace Sys2Proof.Machine

/-! ## `State.setReg` -/

@[simp] theorem State.setReg_v (s : State) (r : Nibble) (b : Byte) :
    (State.setReg s r b).v = s.v.set r.toNat b r.isLt := rfl
@[simp] theorem State.setReg_index (s : State) (r : Nibble) (b : Byte) :
    (State.setReg s r b).index = s.index := rfl
@[simp] theorem State.setReg_pc (s : State) (r : Nibble) (b : Byte) :
    (State.setReg s r b).pc = s.pc := rfl
@[simp] theorem State.setReg_stack (s : State) (r : Nibble) (b : Byte) :
    (State.setReg s r b).stack = s.stack := rfl
@[simp] theorem State.setReg_sp (s : State) (r : Nibble) (b : Byte) :
    (State.setReg s r b).sp = s.sp := rfl
@[simp] theorem State.setReg_dt (s : State) (r : Nibble) (b : Byte) :
    (State.setReg s r b).dt = s.dt := rfl
@[simp] theorem State.setReg_st (s : State) (r : Nibble) (b : Byte) :
    (State.setReg s r b).st = s.st := rfl
@[simp] theorem State.setReg_mem (s : State) (r : Nibble) (b : Byte) :
    (State.setReg s r b).mem = s.mem := rfl
@[simp] theorem State.setReg_fault (s : State) (r : Nibble) (b : Byte) :
    (State.setReg s r b).fault = s.fault := rfl
@[simp] theorem State.setReg_awaitingKey (s : State) (r : Nibble) (b : Byte) :
    (State.setReg s r b).awaitingKey = s.awaitingKey := rfl
@[simp] theorem State.setReg_keyReg (s : State) (r : Nibble) (b : Byte) :
    (State.setReg s r b).keyReg = s.keyReg := rfl
@[simp] theorem State.setReg_fb (s : State) (r : Nibble) (b : Byte) :
    (State.setReg s r b).fb = s.fb := rfl
@[simp] theorem State.setReg_cfg (s : State) (r : Nibble) (b : Byte) :
    (State.setReg s r b).cfg = s.cfg := rfl
@[simp] theorem State.setReg_param (s : State) (r : Nibble) (b : Byte) :
    (State.setReg s r b).param = s.param := rfl
@[simp] theorem State.setReg_phase (s : State) (r : Nibble) (b : Byte) :
    (State.setReg s r b).phase = s.phase := rfl
@[simp] theorem State.setReg_keys (s : State) (r : Nibble) (b : Byte) :
    (State.setReg s r b).keys = s.keys := rfl
@[simp] theorem State.setReg_rnd (s : State) (r : Nibble) (b : Byte) :
    (State.setReg s r b).rnd = s.rnd := rfl
@[simp] theorem State.setReg_events (s : State) (r : Nibble) (b : Byte) :
    (State.setReg s r b).events = s.events := rfl
@[simp] theorem State.setReg_drawn (s : State) (r : Nibble) (b : Byte) :
    (State.setReg s r b).drawn = s.drawn := rfl

/-! ## `State.jumpTo` -/

@[simp] theorem State.jumpTo_v (s : State) (a : Word) :
    (State.jumpTo s a).v = s.v := rfl
@[simp] theorem State.jumpTo_index (s : State) (a : Word) :
    (State.jumpTo s a).index = s.index := rfl
@[simp] theorem State.jumpTo_pc (s : State) (a : Word) :
    (State.jumpTo s a).pc = a := rfl
@[simp] theorem State.jumpTo_stack (s : State) (a : Word) :
    (State.jumpTo s a).stack = s.stack := rfl
@[simp] theorem State.jumpTo_sp (s : State) (a : Word) :
    (State.jumpTo s a).sp = s.sp := rfl
@[simp] theorem State.jumpTo_dt (s : State) (a : Word) :
    (State.jumpTo s a).dt = s.dt := rfl
@[simp] theorem State.jumpTo_st (s : State) (a : Word) :
    (State.jumpTo s a).st = s.st := rfl
@[simp] theorem State.jumpTo_mem (s : State) (a : Word) :
    (State.jumpTo s a).mem = s.mem := rfl
@[simp] theorem State.jumpTo_fault (s : State) (a : Word) :
    (State.jumpTo s a).fault = s.fault := rfl
@[simp] theorem State.jumpTo_awaitingKey (s : State) (a : Word) :
    (State.jumpTo s a).awaitingKey = s.awaitingKey := rfl
@[simp] theorem State.jumpTo_keyReg (s : State) (a : Word) :
    (State.jumpTo s a).keyReg = s.keyReg := rfl
@[simp] theorem State.jumpTo_fb (s : State) (a : Word) :
    (State.jumpTo s a).fb = s.fb := rfl
@[simp] theorem State.jumpTo_cfg (s : State) (a : Word) :
    (State.jumpTo s a).cfg = s.cfg := rfl
@[simp] theorem State.jumpTo_param (s : State) (a : Word) :
    (State.jumpTo s a).param = s.param := rfl
@[simp] theorem State.jumpTo_phase (s : State) (a : Word) :
    (State.jumpTo s a).phase = s.phase := rfl
@[simp] theorem State.jumpTo_keys (s : State) (a : Word) :
    (State.jumpTo s a).keys = s.keys := rfl
@[simp] theorem State.jumpTo_rnd (s : State) (a : Word) :
    (State.jumpTo s a).rnd = s.rnd := rfl
@[simp] theorem State.jumpTo_events (s : State) (a : Word) :
    (State.jumpTo s a).events = s.events := rfl
@[simp] theorem State.jumpTo_drawn (s : State) (a : Word) :
    (State.jumpTo s a).drawn = s.drawn := rfl

/-! ## `State.advance` -/

@[simp] theorem State.advance_v (s : State) :
    (State.advance s).v = s.v := rfl
@[simp] theorem State.advance_index (s : State) :
    (State.advance s).index = s.index := rfl
@[simp] theorem State.advance_pc (s : State) :
    (State.advance s).pc = s.pc + 2 := rfl
@[simp] theorem State.advance_stack (s : State) :
    (State.advance s).stack = s.stack := rfl
@[simp] theorem State.advance_sp (s : State) :
    (State.advance s).sp = s.sp := rfl
@[simp] theorem State.advance_dt (s : State) :
    (State.advance s).dt = s.dt := rfl
@[simp] theorem State.advance_st (s : State) :
    (State.advance s).st = s.st := rfl
@[simp] theorem State.advance_mem (s : State) :
    (State.advance s).mem = s.mem := rfl
@[simp] theorem State.advance_fault (s : State) :
    (State.advance s).fault = s.fault := rfl
@[simp] theorem State.advance_awaitingKey (s : State) :
    (State.advance s).awaitingKey = s.awaitingKey := rfl
@[simp] theorem State.advance_keyReg (s : State) :
    (State.advance s).keyReg = s.keyReg := rfl
@[simp] theorem State.advance_fb (s : State) :
    (State.advance s).fb = s.fb := rfl
@[simp] theorem State.advance_cfg (s : State) :
    (State.advance s).cfg = s.cfg := rfl
@[simp] theorem State.advance_param (s : State) :
    (State.advance s).param = s.param := rfl
@[simp] theorem State.advance_phase (s : State) :
    (State.advance s).phase = s.phase := rfl
@[simp] theorem State.advance_keys (s : State) :
    (State.advance s).keys = s.keys := rfl
@[simp] theorem State.advance_rnd (s : State) :
    (State.advance s).rnd = s.rnd := rfl
@[simp] theorem State.advance_events (s : State) :
    (State.advance s).events = s.events := rfl
@[simp] theorem State.advance_drawn (s : State) :
    (State.advance s).drawn = s.drawn := rfl

/-! ## `State.skipIf` -/

@[simp] theorem State.skipIf_v (s : State) (c : Bool) :
    (State.skipIf s c).v = s.v := rfl
@[simp] theorem State.skipIf_index (s : State) (c : Bool) :
    (State.skipIf s c).index = s.index := rfl
@[simp] theorem State.skipIf_pc (s : State) (c : Bool) :
    (State.skipIf s c).pc = if c then s.npc + 2 else s.npc := rfl
@[simp] theorem State.skipIf_stack (s : State) (c : Bool) :
    (State.skipIf s c).stack = s.stack := rfl
@[simp] theorem State.skipIf_sp (s : State) (c : Bool) :
    (State.skipIf s c).sp = s.sp := rfl
@[simp] theorem State.skipIf_dt (s : State) (c : Bool) :
    (State.skipIf s c).dt = s.dt := rfl
@[simp] theorem State.skipIf_st (s : State) (c : Bool) :
    (State.skipIf s c).st = s.st := rfl
@[simp] theorem State.skipIf_mem (s : State) (c : Bool) :
    (State.skipIf s c).mem = s.mem := rfl
@[simp] theorem State.skipIf_fault (s : State) (c : Bool) :
    (State.skipIf s c).fault = s.fault := rfl
@[simp] theorem State.skipIf_awaitingKey (s : State) (c : Bool) :
    (State.skipIf s c).awaitingKey = s.awaitingKey := rfl
@[simp] theorem State.skipIf_keyReg (s : State) (c : Bool) :
    (State.skipIf s c).keyReg = s.keyReg := rfl
@[simp] theorem State.skipIf_fb (s : State) (c : Bool) :
    (State.skipIf s c).fb = s.fb := rfl
@[simp] theorem State.skipIf_cfg (s : State) (c : Bool) :
    (State.skipIf s c).cfg = s.cfg := rfl
@[simp] theorem State.skipIf_param (s : State) (c : Bool) :
    (State.skipIf s c).param = s.param := rfl
@[simp] theorem State.skipIf_phase (s : State) (c : Bool) :
    (State.skipIf s c).phase = s.phase := rfl
@[simp] theorem State.skipIf_keys (s : State) (c : Bool) :
    (State.skipIf s c).keys = s.keys := rfl
@[simp] theorem State.skipIf_rnd (s : State) (c : Bool) :
    (State.skipIf s c).rnd = s.rnd := rfl
@[simp] theorem State.skipIf_events (s : State) (c : Bool) :
    (State.skipIf s c).events = s.events := rfl
@[simp] theorem State.skipIf_drawn (s : State) (c : Bool) :
    (State.skipIf s c).drawn = s.drawn := rfl

/-! ## `State.raise` -/

@[simp] theorem State.raise_v (s : State) (c : Cause) (w : Word) :
    (State.raise s c w).v = s.v := rfl
@[simp] theorem State.raise_index (s : State) (c : Cause) (w : Word) :
    (State.raise s c w).index = s.index := rfl
@[simp] theorem State.raise_pc (s : State) (c : Cause) (w : Word) :
    (State.raise s c w).pc = s.pc := rfl
@[simp] theorem State.raise_stack (s : State) (c : Cause) (w : Word) :
    (State.raise s c w).stack = s.stack := rfl
@[simp] theorem State.raise_sp (s : State) (c : Cause) (w : Word) :
    (State.raise s c w).sp = s.sp := rfl
@[simp] theorem State.raise_dt (s : State) (c : Cause) (w : Word) :
    (State.raise s c w).dt = s.dt := rfl
@[simp] theorem State.raise_st (s : State) (c : Cause) (w : Word) :
    (State.raise s c w).st = s.st := rfl
@[simp] theorem State.raise_mem (s : State) (c : Cause) (w : Word) :
    (State.raise s c w).mem = s.mem := rfl
@[simp] theorem State.raise_fault (s : State) (c : Cause) (w : Word) :
    (State.raise s c w).fault = ⟨true, c.code, s.pc, w⟩ := rfl
@[simp] theorem State.raise_awaitingKey (s : State) (c : Cause) (w : Word) :
    (State.raise s c w).awaitingKey = s.awaitingKey := rfl
@[simp] theorem State.raise_keyReg (s : State) (c : Cause) (w : Word) :
    (State.raise s c w).keyReg = s.keyReg := rfl
@[simp] theorem State.raise_fb (s : State) (c : Cause) (w : Word) :
    (State.raise s c w).fb = s.fb := rfl
@[simp] theorem State.raise_cfg (s : State) (c : Cause) (w : Word) :
    (State.raise s c w).cfg = s.cfg := rfl
@[simp] theorem State.raise_param (s : State) (c : Cause) (w : Word) :
    (State.raise s c w).param = s.param := rfl
@[simp] theorem State.raise_phase (s : State) (c : Cause) (w : Word) :
    (State.raise s c w).phase = s.phase := rfl
@[simp] theorem State.raise_keys (s : State) (c : Cause) (w : Word) :
    (State.raise s c w).keys = s.keys := rfl
@[simp] theorem State.raise_rnd (s : State) (c : Cause) (w : Word) :
    (State.raise s c w).rnd = s.rnd := rfl
@[simp] theorem State.raise_events (s : State) (c : Cause) (w : Word) :
    (State.raise s c w).events = s.events := rfl
@[simp] theorem State.raise_drawn (s : State) (c : Cause) (w : Word) :
    (State.raise s c w).drawn = s.drawn := rfl

/-! ## `State.setFlag` -/

@[simp] theorem State.setFlag_v (s : State) (f : Bool) :
    (State.setFlag s f).v = (State.setReg s vf (flagByte f)).v := rfl
@[simp] theorem State.setFlag_index (s : State) (f : Bool) :
    (State.setFlag s f).index = s.index := rfl
@[simp] theorem State.setFlag_pc (s : State) (f : Bool) :
    (State.setFlag s f).pc = s.pc := rfl
@[simp] theorem State.setFlag_stack (s : State) (f : Bool) :
    (State.setFlag s f).stack = s.stack := rfl
@[simp] theorem State.setFlag_sp (s : State) (f : Bool) :
    (State.setFlag s f).sp = s.sp := rfl
@[simp] theorem State.setFlag_dt (s : State) (f : Bool) :
    (State.setFlag s f).dt = s.dt := rfl
@[simp] theorem State.setFlag_st (s : State) (f : Bool) :
    (State.setFlag s f).st = s.st := rfl
@[simp] theorem State.setFlag_mem (s : State) (f : Bool) :
    (State.setFlag s f).mem = s.mem := rfl
@[simp] theorem State.setFlag_fault (s : State) (f : Bool) :
    (State.setFlag s f).fault = s.fault := rfl
@[simp] theorem State.setFlag_awaitingKey (s : State) (f : Bool) :
    (State.setFlag s f).awaitingKey = s.awaitingKey := rfl
@[simp] theorem State.setFlag_keyReg (s : State) (f : Bool) :
    (State.setFlag s f).keyReg = s.keyReg := rfl
@[simp] theorem State.setFlag_fb (s : State) (f : Bool) :
    (State.setFlag s f).fb = s.fb := rfl
@[simp] theorem State.setFlag_cfg (s : State) (f : Bool) :
    (State.setFlag s f).cfg = s.cfg := rfl
@[simp] theorem State.setFlag_param (s : State) (f : Bool) :
    (State.setFlag s f).param = s.param := rfl
@[simp] theorem State.setFlag_phase (s : State) (f : Bool) :
    (State.setFlag s f).phase = s.phase := rfl
@[simp] theorem State.setFlag_keys (s : State) (f : Bool) :
    (State.setFlag s f).keys = s.keys := rfl
@[simp] theorem State.setFlag_rnd (s : State) (f : Bool) :
    (State.setFlag s f).rnd = s.rnd := rfl
@[simp] theorem State.setFlag_events (s : State) (f : Bool) :
    (State.setFlag s f).events = s.events := rfl
@[simp] theorem State.setFlag_drawn (s : State) (f : Bool) :
    (State.setFlag s f).drawn = s.drawn := rfl

/-! ## `State.setResult` -/

@[simp] theorem State.setResult_v (s : State) (x : Nibble) (b : Byte) (f : Bool) :
    (State.setResult s x b f).v = ((State.setReg s x b).setReg vf (flagByte f)).v := rfl
@[simp] theorem State.setResult_index (s : State) (x : Nibble) (b : Byte) (f : Bool) :
    (State.setResult s x b f).index = s.index := rfl
@[simp] theorem State.setResult_pc (s : State) (x : Nibble) (b : Byte) (f : Bool) :
    (State.setResult s x b f).pc = s.pc := rfl
@[simp] theorem State.setResult_stack (s : State) (x : Nibble) (b : Byte) (f : Bool) :
    (State.setResult s x b f).stack = s.stack := rfl
@[simp] theorem State.setResult_sp (s : State) (x : Nibble) (b : Byte) (f : Bool) :
    (State.setResult s x b f).sp = s.sp := rfl
@[simp] theorem State.setResult_dt (s : State) (x : Nibble) (b : Byte) (f : Bool) :
    (State.setResult s x b f).dt = s.dt := rfl
@[simp] theorem State.setResult_st (s : State) (x : Nibble) (b : Byte) (f : Bool) :
    (State.setResult s x b f).st = s.st := rfl
@[simp] theorem State.setResult_mem (s : State) (x : Nibble) (b : Byte) (f : Bool) :
    (State.setResult s x b f).mem = s.mem := rfl
@[simp] theorem State.setResult_fault (s : State) (x : Nibble) (b : Byte) (f : Bool) :
    (State.setResult s x b f).fault = s.fault := rfl
@[simp] theorem State.setResult_awaitingKey (s : State) (x : Nibble) (b : Byte) (f : Bool) :
    (State.setResult s x b f).awaitingKey = s.awaitingKey := rfl
@[simp] theorem State.setResult_keyReg (s : State) (x : Nibble) (b : Byte) (f : Bool) :
    (State.setResult s x b f).keyReg = s.keyReg := rfl
@[simp] theorem State.setResult_fb (s : State) (x : Nibble) (b : Byte) (f : Bool) :
    (State.setResult s x b f).fb = s.fb := rfl
@[simp] theorem State.setResult_cfg (s : State) (x : Nibble) (b : Byte) (f : Bool) :
    (State.setResult s x b f).cfg = s.cfg := rfl
@[simp] theorem State.setResult_param (s : State) (x : Nibble) (b : Byte) (f : Bool) :
    (State.setResult s x b f).param = s.param := rfl
@[simp] theorem State.setResult_phase (s : State) (x : Nibble) (b : Byte) (f : Bool) :
    (State.setResult s x b f).phase = s.phase := rfl
@[simp] theorem State.setResult_keys (s : State) (x : Nibble) (b : Byte) (f : Bool) :
    (State.setResult s x b f).keys = s.keys := rfl
@[simp] theorem State.setResult_rnd (s : State) (x : Nibble) (b : Byte) (f : Bool) :
    (State.setResult s x b f).rnd = s.rnd := rfl
@[simp] theorem State.setResult_events (s : State) (x : Nibble) (b : Byte) (f : Bool) :
    (State.setResult s x b f).events = s.events := rfl
@[simp] theorem State.setResult_drawn (s : State) (x : Nibble) (b : Byte) (f : Bool) :
    (State.setResult s x b f).drawn = s.drawn := rfl

/-! ## `State.setIndex` -/

@[simp] theorem State.setIndex_v (s : State) (w : Word) :
    (State.setIndex s w).v = s.v := rfl
@[simp] theorem State.setIndex_index (s : State) (w : Word) :
    (State.setIndex s w).index = w := rfl
@[simp] theorem State.setIndex_pc (s : State) (w : Word) :
    (State.setIndex s w).pc = s.pc := rfl
@[simp] theorem State.setIndex_stack (s : State) (w : Word) :
    (State.setIndex s w).stack = s.stack := rfl
@[simp] theorem State.setIndex_sp (s : State) (w : Word) :
    (State.setIndex s w).sp = s.sp := rfl
@[simp] theorem State.setIndex_dt (s : State) (w : Word) :
    (State.setIndex s w).dt = s.dt := rfl
@[simp] theorem State.setIndex_st (s : State) (w : Word) :
    (State.setIndex s w).st = s.st := rfl
@[simp] theorem State.setIndex_mem (s : State) (w : Word) :
    (State.setIndex s w).mem = s.mem := rfl
@[simp] theorem State.setIndex_fault (s : State) (w : Word) :
    (State.setIndex s w).fault = s.fault := rfl
@[simp] theorem State.setIndex_awaitingKey (s : State) (w : Word) :
    (State.setIndex s w).awaitingKey = s.awaitingKey := rfl
@[simp] theorem State.setIndex_keyReg (s : State) (w : Word) :
    (State.setIndex s w).keyReg = s.keyReg := rfl
@[simp] theorem State.setIndex_fb (s : State) (w : Word) :
    (State.setIndex s w).fb = s.fb := rfl
@[simp] theorem State.setIndex_cfg (s : State) (w : Word) :
    (State.setIndex s w).cfg = s.cfg := rfl
@[simp] theorem State.setIndex_param (s : State) (w : Word) :
    (State.setIndex s w).param = s.param := rfl
@[simp] theorem State.setIndex_phase (s : State) (w : Word) :
    (State.setIndex s w).phase = s.phase := rfl
@[simp] theorem State.setIndex_keys (s : State) (w : Word) :
    (State.setIndex s w).keys = s.keys := rfl
@[simp] theorem State.setIndex_rnd (s : State) (w : Word) :
    (State.setIndex s w).rnd = s.rnd := rfl
@[simp] theorem State.setIndex_events (s : State) (w : Word) :
    (State.setIndex s w).events = s.events := rfl
@[simp] theorem State.setIndex_drawn (s : State) (w : Word) :
    (State.setIndex s w).drawn = s.drawn := rfl

/-! ## `State.storeBlock` -/

@[simp] theorem State.storeBlock_v (s : State) (bs : List Byte) :
    (State.storeBlock s bs).v = s.v := rfl
@[simp] theorem State.storeBlock_index (s : State) (bs : List Byte) :
    (State.storeBlock s bs).index = s.index := rfl
@[simp] theorem State.storeBlock_pc (s : State) (bs : List Byte) :
    (State.storeBlock s bs).pc = s.pc := rfl
@[simp] theorem State.storeBlock_stack (s : State) (bs : List Byte) :
    (State.storeBlock s bs).stack = s.stack := rfl
@[simp] theorem State.storeBlock_sp (s : State) (bs : List Byte) :
    (State.storeBlock s bs).sp = s.sp := rfl
@[simp] theorem State.storeBlock_dt (s : State) (bs : List Byte) :
    (State.storeBlock s bs).dt = s.dt := rfl
@[simp] theorem State.storeBlock_st (s : State) (bs : List Byte) :
    (State.storeBlock s bs).st = s.st := rfl
@[simp] theorem State.storeBlock_mem (s : State) (bs : List Byte) :
    (State.storeBlock s bs).mem = Memory.writeBlock s.mem s.index.toNat bs := rfl
@[simp] theorem State.storeBlock_fault (s : State) (bs : List Byte) :
    (State.storeBlock s bs).fault = s.fault := rfl
@[simp] theorem State.storeBlock_awaitingKey (s : State) (bs : List Byte) :
    (State.storeBlock s bs).awaitingKey = s.awaitingKey := rfl
@[simp] theorem State.storeBlock_keyReg (s : State) (bs : List Byte) :
    (State.storeBlock s bs).keyReg = s.keyReg := rfl
@[simp] theorem State.storeBlock_fb (s : State) (bs : List Byte) :
    (State.storeBlock s bs).fb = s.fb := rfl
@[simp] theorem State.storeBlock_cfg (s : State) (bs : List Byte) :
    (State.storeBlock s bs).cfg = s.cfg := rfl
@[simp] theorem State.storeBlock_param (s : State) (bs : List Byte) :
    (State.storeBlock s bs).param = s.param := rfl
@[simp] theorem State.storeBlock_phase (s : State) (bs : List Byte) :
    (State.storeBlock s bs).phase = s.phase := rfl
@[simp] theorem State.storeBlock_keys (s : State) (bs : List Byte) :
    (State.storeBlock s bs).keys = s.keys := rfl
@[simp] theorem State.storeBlock_rnd (s : State) (bs : List Byte) :
    (State.storeBlock s bs).rnd = s.rnd := rfl
@[simp] theorem State.storeBlock_events (s : State) (bs : List Byte) :
    (State.storeBlock s bs).events = s.events := rfl
@[simp] theorem State.storeBlock_drawn (s : State) (bs : List Byte) :
    (State.storeBlock s bs).drawn = s.drawn := rfl

/-! ## `State.load` -/

@[simp] theorem State.load_v (s : State) (a : Nat) (bs : List Byte) :
    (State.load s a bs).v = s.v := rfl
@[simp] theorem State.load_index (s : State) (a : Nat) (bs : List Byte) :
    (State.load s a bs).index = s.index := rfl
@[simp] theorem State.load_pc (s : State) (a : Nat) (bs : List Byte) :
    (State.load s a bs).pc = s.pc := rfl
@[simp] theorem State.load_stack (s : State) (a : Nat) (bs : List Byte) :
    (State.load s a bs).stack = s.stack := rfl
@[simp] theorem State.load_sp (s : State) (a : Nat) (bs : List Byte) :
    (State.load s a bs).sp = s.sp := rfl
@[simp] theorem State.load_dt (s : State) (a : Nat) (bs : List Byte) :
    (State.load s a bs).dt = s.dt := rfl
@[simp] theorem State.load_st (s : State) (a : Nat) (bs : List Byte) :
    (State.load s a bs).st = s.st := rfl
@[simp] theorem State.load_mem (s : State) (a : Nat) (bs : List Byte) :
    (State.load s a bs).mem = Memory.writeBlock s.mem a bs := rfl
@[simp] theorem State.load_fault (s : State) (a : Nat) (bs : List Byte) :
    (State.load s a bs).fault = s.fault := rfl
@[simp] theorem State.load_awaitingKey (s : State) (a : Nat) (bs : List Byte) :
    (State.load s a bs).awaitingKey = s.awaitingKey := rfl
@[simp] theorem State.load_keyReg (s : State) (a : Nat) (bs : List Byte) :
    (State.load s a bs).keyReg = s.keyReg := rfl
@[simp] theorem State.load_fb (s : State) (a : Nat) (bs : List Byte) :
    (State.load s a bs).fb = s.fb := rfl
@[simp] theorem State.load_cfg (s : State) (a : Nat) (bs : List Byte) :
    (State.load s a bs).cfg = s.cfg := rfl
@[simp] theorem State.load_param (s : State) (a : Nat) (bs : List Byte) :
    (State.load s a bs).param = s.param := rfl
@[simp] theorem State.load_phase (s : State) (a : Nat) (bs : List Byte) :
    (State.load s a bs).phase = s.phase := rfl
@[simp] theorem State.load_keys (s : State) (a : Nat) (bs : List Byte) :
    (State.load s a bs).keys = s.keys := rfl
@[simp] theorem State.load_rnd (s : State) (a : Nat) (bs : List Byte) :
    (State.load s a bs).rnd = s.rnd := rfl
@[simp] theorem State.load_events (s : State) (a : Nat) (bs : List Byte) :
    (State.load s a bs).events = s.events := rfl
@[simp] theorem State.load_drawn (s : State) (a : Nat) (bs : List Byte) :
    (State.load s a bs).drawn = s.drawn := rfl

/-! ## `State.tick` -/

@[simp] theorem State.tick_v (s : State) :
    (State.tick s).v = s.v := rfl
@[simp] theorem State.tick_index (s : State) :
    (State.tick s).index = s.index := rfl
@[simp] theorem State.tick_pc (s : State) :
    (State.tick s).pc = s.pc := rfl
@[simp] theorem State.tick_stack (s : State) :
    (State.tick s).stack = s.stack := rfl
@[simp] theorem State.tick_sp (s : State) :
    (State.tick s).sp = s.sp := rfl
@[simp] theorem State.tick_dt (s : State) :
    (State.tick s).dt = tickTimer s.dt := rfl
@[simp] theorem State.tick_st (s : State) :
    (State.tick s).st = tickTimer s.st := rfl
@[simp] theorem State.tick_mem (s : State) :
    (State.tick s).mem = s.mem := rfl
@[simp] theorem State.tick_fault (s : State) :
    (State.tick s).fault = s.fault := rfl
@[simp] theorem State.tick_awaitingKey (s : State) :
    (State.tick s).awaitingKey = s.awaitingKey := rfl
@[simp] theorem State.tick_keyReg (s : State) :
    (State.tick s).keyReg = s.keyReg := rfl
@[simp] theorem State.tick_fb (s : State) :
    (State.tick s).fb = s.fb := rfl
@[simp] theorem State.tick_cfg (s : State) :
    (State.tick s).cfg = s.cfg := rfl
@[simp] theorem State.tick_param (s : State) :
    (State.tick s).param = s.param := rfl
@[simp] theorem State.tick_phase (s : State) :
    (State.tick s).phase = s.phase := rfl
@[simp] theorem State.tick_keys (s : State) :
    (State.tick s).keys = s.keys := rfl
@[simp] theorem State.tick_rnd (s : State) :
    (State.tick s).rnd = s.rnd := rfl
@[simp] theorem State.tick_events (s : State) :
    (State.tick s).events = s.events := rfl
@[simp] theorem State.tick_drawn (s : State) :
    (State.tick s).drawn = s.drawn := rfl

/-! ## `State.present` -/

@[simp] theorem State.present_v (s : State) (k : Word) (b : Byte) :
    (State.present s k b).v = s.v := rfl
@[simp] theorem State.present_index (s : State) (k : Word) (b : Byte) :
    (State.present s k b).index = s.index := rfl
@[simp] theorem State.present_pc (s : State) (k : Word) (b : Byte) :
    (State.present s k b).pc = s.pc := rfl
@[simp] theorem State.present_stack (s : State) (k : Word) (b : Byte) :
    (State.present s k b).stack = s.stack := rfl
@[simp] theorem State.present_sp (s : State) (k : Word) (b : Byte) :
    (State.present s k b).sp = s.sp := rfl
@[simp] theorem State.present_dt (s : State) (k : Word) (b : Byte) :
    (State.present s k b).dt = s.dt := rfl
@[simp] theorem State.present_st (s : State) (k : Word) (b : Byte) :
    (State.present s k b).st = s.st := rfl
@[simp] theorem State.present_mem (s : State) (k : Word) (b : Byte) :
    (State.present s k b).mem = s.mem := rfl
@[simp] theorem State.present_fault (s : State) (k : Word) (b : Byte) :
    (State.present s k b).fault = s.fault := rfl
@[simp] theorem State.present_awaitingKey (s : State) (k : Word) (b : Byte) :
    (State.present s k b).awaitingKey = s.awaitingKey := rfl
@[simp] theorem State.present_keyReg (s : State) (k : Word) (b : Byte) :
    (State.present s k b).keyReg = s.keyReg := rfl
@[simp] theorem State.present_fb (s : State) (k : Word) (b : Byte) :
    (State.present s k b).fb = s.fb := rfl
@[simp] theorem State.present_cfg (s : State) (k : Word) (b : Byte) :
    (State.present s k b).cfg = s.cfg := rfl
@[simp] theorem State.present_param (s : State) (k : Word) (b : Byte) :
    (State.present s k b).param = s.param := rfl
@[simp] theorem State.present_phase (s : State) (k : Word) (b : Byte) :
    (State.present s k b).phase = .running := rfl
@[simp] theorem State.present_keys (s : State) (k : Word) (b : Byte) :
    (State.present s k b).keys = k := rfl
@[simp] theorem State.present_rnd (s : State) (k : Word) (b : Byte) :
    (State.present s k b).rnd = b := rfl
@[simp] theorem State.present_events (s : State) (k : Word) (b : Byte) :
    (State.present s k b).events = s.events := rfl
@[simp] theorem State.present_drawn (s : State) (k : Word) (b : Byte) :
    (State.present s k b).drawn = s.drawn := rfl

/-! ## `State.dropEvent` -/

@[simp] theorem State.dropEvent_v (s : State) :
    (State.dropEvent s).v = s.v := rfl
@[simp] theorem State.dropEvent_index (s : State) :
    (State.dropEvent s).index = s.index := rfl
@[simp] theorem State.dropEvent_pc (s : State) :
    (State.dropEvent s).pc = s.pc := rfl
@[simp] theorem State.dropEvent_stack (s : State) :
    (State.dropEvent s).stack = s.stack := rfl
@[simp] theorem State.dropEvent_sp (s : State) :
    (State.dropEvent s).sp = s.sp := rfl
@[simp] theorem State.dropEvent_dt (s : State) :
    (State.dropEvent s).dt = s.dt := rfl
@[simp] theorem State.dropEvent_st (s : State) :
    (State.dropEvent s).st = s.st := rfl
@[simp] theorem State.dropEvent_mem (s : State) :
    (State.dropEvent s).mem = s.mem := rfl
@[simp] theorem State.dropEvent_fault (s : State) :
    (State.dropEvent s).fault = s.fault := rfl
@[simp] theorem State.dropEvent_awaitingKey (s : State) :
    (State.dropEvent s).awaitingKey = s.awaitingKey := rfl
@[simp] theorem State.dropEvent_keyReg (s : State) :
    (State.dropEvent s).keyReg = s.keyReg := rfl
@[simp] theorem State.dropEvent_fb (s : State) :
    (State.dropEvent s).fb = s.fb := rfl
@[simp] theorem State.dropEvent_cfg (s : State) :
    (State.dropEvent s).cfg = s.cfg := rfl
@[simp] theorem State.dropEvent_param (s : State) :
    (State.dropEvent s).param = s.param := rfl
@[simp] theorem State.dropEvent_phase (s : State) :
    (State.dropEvent s).phase = s.phase := rfl
@[simp] theorem State.dropEvent_keys (s : State) :
    (State.dropEvent s).keys = s.keys := rfl
@[simp] theorem State.dropEvent_rnd (s : State) :
    (State.dropEvent s).rnd = s.rnd := rfl
@[simp] theorem State.dropEvent_events (s : State) :
    (State.dropEvent s).events = s.events.tail := rfl
@[simp] theorem State.dropEvent_drawn (s : State) :
    (State.dropEvent s).drawn = s.drawn + 1 := rfl

/-! ## `State.afterBlock` -/

@[simp] theorem State.afterBlock_index (s : State) (k : Nat) :
    (State.afterBlock s k).index = if s.cfg.regSaveLegacy then s.indexPlus k else s.index := by
  unfold State.afterBlock; split <;> rfl
@[simp] theorem State.afterBlock_v (s : State) (k : Nat) :
    (State.afterBlock s k).v = s.v := by
  unfold State.afterBlock; split <;> rfl
@[simp] theorem State.afterBlock_pc (s : State) (k : Nat) :
    (State.afterBlock s k).pc = s.pc := by
  unfold State.afterBlock; split <;> rfl
@[simp] theorem State.afterBlock_stack (s : State) (k : Nat) :
    (State.afterBlock s k).stack = s.stack := by
  unfold State.afterBlock; split <;> rfl
@[simp] theorem State.afterBlock_sp (s : State) (k : Nat) :
    (State.afterBlock s k).sp = s.sp := by
  unfold State.afterBlock; split <;> rfl
@[simp] theorem State.afterBlock_dt (s : State) (k : Nat) :
    (State.afterBlock s k).dt = s.dt := by
  unfold State.afterBlock; split <;> rfl
@[simp] theorem State.afterBlock_st (s : State) (k : Nat) :
    (State.afterBlock s k).st = s.st := by
  unfold State.afterBlock; split <;> rfl
@[simp] theorem State.afterBlock_mem (s : State) (k : Nat) :
    (State.afterBlock s k).mem = s.mem := by
  unfold State.afterBlock; split <;> rfl
@[simp] theorem State.afterBlock_fault (s : State) (k : Nat) :
    (State.afterBlock s k).fault = s.fault := by
  unfold State.afterBlock; split <;> rfl
@[simp] theorem State.afterBlock_awaitingKey (s : State) (k : Nat) :
    (State.afterBlock s k).awaitingKey = s.awaitingKey := by
  unfold State.afterBlock; split <;> rfl
@[simp] theorem State.afterBlock_keyReg (s : State) (k : Nat) :
    (State.afterBlock s k).keyReg = s.keyReg := by
  unfold State.afterBlock; split <;> rfl
@[simp] theorem State.afterBlock_fb (s : State) (k : Nat) :
    (State.afterBlock s k).fb = s.fb := by
  unfold State.afterBlock; split <;> rfl
@[simp] theorem State.afterBlock_cfg (s : State) (k : Nat) :
    (State.afterBlock s k).cfg = s.cfg := by
  unfold State.afterBlock; split <;> rfl
@[simp] theorem State.afterBlock_param (s : State) (k : Nat) :
    (State.afterBlock s k).param = s.param := by
  unfold State.afterBlock; split <;> rfl
@[simp] theorem State.afterBlock_phase (s : State) (k : Nat) :
    (State.afterBlock s k).phase = s.phase := by
  unfold State.afterBlock; split <;> rfl
@[simp] theorem State.afterBlock_keys (s : State) (k : Nat) :
    (State.afterBlock s k).keys = s.keys := by
  unfold State.afterBlock; split <;> rfl
@[simp] theorem State.afterBlock_rnd (s : State) (k : Nat) :
    (State.afterBlock s k).rnd = s.rnd := by
  unfold State.afterBlock; split <;> rfl
@[simp] theorem State.afterBlock_events (s : State) (k : Nat) :
    (State.afterBlock s k).events = s.events := by
  unfold State.afterBlock; split <;> rfl
@[simp] theorem State.afterBlock_drawn (s : State) (k : Nat) :
    (State.afterBlock s k).drawn = s.drawn := by
  unfold State.afterBlock; split <;> rfl

/-! ## `State.setRegsFrom` -/

@[simp] theorem State.setRegsFrom_index (s : State) (k : Nat) (bs : List Byte) :
    (State.setRegsFrom s k bs).index = s.index := by
  induction bs generalizing s k with
  | nil => rfl
  | cons b bs ih => simp [State.setRegsFrom, ih]
@[simp] theorem State.setRegsFrom_pc (s : State) (k : Nat) (bs : List Byte) :
    (State.setRegsFrom s k bs).pc = s.pc := by
  induction bs generalizing s k with
  | nil => rfl
  | cons b bs ih => simp [State.setRegsFrom, ih]
@[simp] theorem State.setRegsFrom_stack (s : State) (k : Nat) (bs : List Byte) :
    (State.setRegsFrom s k bs).stack = s.stack := by
  induction bs generalizing s k with
  | nil => rfl
  | cons b bs ih => simp [State.setRegsFrom, ih]
@[simp] theorem State.setRegsFrom_sp (s : State) (k : Nat) (bs : List Byte) :
    (State.setRegsFrom s k bs).sp = s.sp := by
  induction bs generalizing s k with
  | nil => rfl
  | cons b bs ih => simp [State.setRegsFrom, ih]
@[simp] theorem State.setRegsFrom_dt (s : State) (k : Nat) (bs : List Byte) :
    (State.setRegsFrom s k bs).dt = s.dt := by
  induction bs generalizing s k with
  | nil => rfl
  | cons b bs ih => simp [State.setRegsFrom, ih]
@[simp] theorem State.setRegsFrom_st (s : State) (k : Nat) (bs : List Byte) :
    (State.setRegsFrom s k bs).st = s.st := by
  induction bs generalizing s k with
  | nil => rfl
  | cons b bs ih => simp [State.setRegsFrom, ih]
@[simp] theorem State.setRegsFrom_mem (s : State) (k : Nat) (bs : List Byte) :
    (State.setRegsFrom s k bs).mem = s.mem := by
  induction bs generalizing s k with
  | nil => rfl
  | cons b bs ih => simp [State.setRegsFrom, ih]
@[simp] theorem State.setRegsFrom_fault (s : State) (k : Nat) (bs : List Byte) :
    (State.setRegsFrom s k bs).fault = s.fault := by
  induction bs generalizing s k with
  | nil => rfl
  | cons b bs ih => simp [State.setRegsFrom, ih]
@[simp] theorem State.setRegsFrom_awaitingKey (s : State) (k : Nat) (bs : List Byte) :
    (State.setRegsFrom s k bs).awaitingKey = s.awaitingKey := by
  induction bs generalizing s k with
  | nil => rfl
  | cons b bs ih => simp [State.setRegsFrom, ih]
@[simp] theorem State.setRegsFrom_keyReg (s : State) (k : Nat) (bs : List Byte) :
    (State.setRegsFrom s k bs).keyReg = s.keyReg := by
  induction bs generalizing s k with
  | nil => rfl
  | cons b bs ih => simp [State.setRegsFrom, ih]
@[simp] theorem State.setRegsFrom_fb (s : State) (k : Nat) (bs : List Byte) :
    (State.setRegsFrom s k bs).fb = s.fb := by
  induction bs generalizing s k with
  | nil => rfl
  | cons b bs ih => simp [State.setRegsFrom, ih]
@[simp] theorem State.setRegsFrom_cfg (s : State) (k : Nat) (bs : List Byte) :
    (State.setRegsFrom s k bs).cfg = s.cfg := by
  induction bs generalizing s k with
  | nil => rfl
  | cons b bs ih => simp [State.setRegsFrom, ih]
@[simp] theorem State.setRegsFrom_param (s : State) (k : Nat) (bs : List Byte) :
    (State.setRegsFrom s k bs).param = s.param := by
  induction bs generalizing s k with
  | nil => rfl
  | cons b bs ih => simp [State.setRegsFrom, ih]
@[simp] theorem State.setRegsFrom_phase (s : State) (k : Nat) (bs : List Byte) :
    (State.setRegsFrom s k bs).phase = s.phase := by
  induction bs generalizing s k with
  | nil => rfl
  | cons b bs ih => simp [State.setRegsFrom, ih]
@[simp] theorem State.setRegsFrom_keys (s : State) (k : Nat) (bs : List Byte) :
    (State.setRegsFrom s k bs).keys = s.keys := by
  induction bs generalizing s k with
  | nil => rfl
  | cons b bs ih => simp [State.setRegsFrom, ih]
@[simp] theorem State.setRegsFrom_rnd (s : State) (k : Nat) (bs : List Byte) :
    (State.setRegsFrom s k bs).rnd = s.rnd := by
  induction bs generalizing s k with
  | nil => rfl
  | cons b bs ih => simp [State.setRegsFrom, ih]
@[simp] theorem State.setRegsFrom_events (s : State) (k : Nat) (bs : List Byte) :
    (State.setRegsFrom s k bs).events = s.events := by
  induction bs generalizing s k with
  | nil => rfl
  | cons b bs ih => simp [State.setRegsFrom, ih]
@[simp] theorem State.setRegsFrom_drawn (s : State) (k : Nat) (bs : List Byte) :
    (State.setRegsFrom s k bs).drawn = s.drawn := by
  induction bs generalizing s k with
  | nil => rfl
  | cons b bs ih => simp [State.setRegsFrom, ih]

end Sys2Proof.Machine
end

