-- ==== Sys2Proof/Laws/Ops.lean ====
section
/-!
SUPPORT. One lemma per shared operation that says once everything it can do: stack, guarded effects, block
checks, index arithmetic, flags.
-/

namespace Sys2Proof.Machine

/-! ## Call stack (R15) -/

/-- A push with room writes `stack[sp]`, increments `sp` and changes nothing else. -/
theorem State.push_of_lt {s : State} (a : Word) (h : s.sp.val < 32) :
    s.push a = some { s with stack := s.stack.set s.sp.val a h, sp := ⟨s.sp.val + 1, Nat.succ_lt_succ h⟩ } := by
  simp [State.push, h]

/-- A push on a full stack is refused. -/
theorem State.push_of_full {s : State} (a : Word) (h : s.sp.val = 32) : s.push a = none := by
  simp [State.push, h]

/-- Everything a push can answer. -/
theorem State.push_eq_some {s t : State} {a : Word} (h : s.push a = some t) :
    ∃ hlt : s.sp.val < 32,
      t = { s with stack := s.stack.set s.sp.val a hlt, sp := ⟨s.sp.val + 1, Nat.succ_lt_succ hlt⟩ } := by
  unfold State.push at h
  split at h
  · exact ⟨‹_›, by simpa using h.symm⟩
  · cases h

/-- A pop of entry `k` reads `stack[k]`, leaves `sp = k` and changes nothing else. -/
theorem State.pop_of_succ {s : State} (k : Fin 32) (h : s.sp.val = k.val + 1) :
    s.pop = some (s.stack[k], { s with sp := ⟨k.val, by omega⟩ }) := by
  have hpos : 0 < s.sp.val := by omega
  have hk : s.sp.val - 1 = k.val := by omega
  simp [State.pop, hpos, hk]

/-- A pop of an empty stack is refused. -/
theorem State.pop_of_empty {s : State} (h : s.sp.val = 0) : s.pop = none := by
  simp [State.pop, h]

/-- Everything a pop can answer. -/
theorem State.pop_eq_some {s t : State} {a : Word} (h : s.pop = some (a, t)) :
    ∃ k : Fin 32, s.sp.val = k.val + 1 ∧ a = s.stack[k] ∧ t = { s with sp := ⟨k.val, by omega⟩ } := by
  have hpos : s.sp.val ≠ 0 := fun h0 => by rw [State.pop_of_empty h0] at h; cases h
  have hlt := s.sp.isLt
  have hk : s.sp.val = (⟨s.sp.val - 1, by omega⟩ : Fin 32).val + 1 := by
    simp only
    omega
  rw [State.pop_of_succ _ hk] at h
  simp only [Option.some.injEq, Prod.mk.injEq] at h
  exact ⟨_, hk, h.1.symm, h.2.symm⟩

/-! ## Guarded effects (R142) -/

@[simp] theorem State.guard_true (s : State) (c : Cause) (w : Word) (t : State) : s.guard true c w t = t := rfl

@[simp] theorem State.guard_false (s : State) (c : Cause) (w : Word) (t : State) :
    s.guard false c w t = s.raise c w := rfl

/-- Everything a guarded effect can be: the effect behind a check that held, or the fault. -/
theorem State.guard_cases (s : State) (ok : Bool) (c : Cause) (w : Word) (t : State) :
    (ok = true ∧ s.guard ok c w t = t) ∨ (ok = false ∧ s.guard ok c w t = s.raise c w) := by
  cases ok <;> simp

/-! ## Block checks (R101) -/

/-- The address of byte `k` of a block. -/
@[simp] theorem State.ea_eq (s : State) (k : Nat) : s.ea k = s.index.toNat + k := rfl

/-- A block of at least one byte fits iff its last address is inside memory. -/
theorem State.blockFits_iff (s : State) {count : Nat} (hpos : 0 < count) :
    s.blockFits count = true ↔ s.index.toNat + (count - 1) ≤ 0x0FFF := by
  have : count ≠ 0 := by omega
  simp only [State.blockFits, State.ea, this, decide_false, Bool.false_or]
  exact decide_eq_true_iff

/-- A block of no bytes makes no access and cannot fault. -/
@[simp] theorem State.blockFits_zero (s : State) : s.blockFits 0 = true := by
  simp [State.blockFits]

theorem State.blockFits_eq_false (s : State) {count : Nat} (hpos : 0 < count) :
    s.blockFits count = false ↔ 0x0FFF < s.index.toNat + (count - 1) := by
  rw [← Bool.not_eq_true, State.blockFits_iff s hpos]
  omega

/-! ## Index arithmetic (R12, R96) -/

@[simp] theorem State.indexPlus_toNat (s : State) (k : Nat) :
    (s.indexPlus k).toNat = (s.index.toNat + k) % 4096 := by
  simp only [State.indexPlus, BitVec.toNat_ofNat]
  omega

/-! ## Operands (R53) -/

@[simp] theorem addrWord_toNat (a : Addr) : (addrWord a).toNat = a.toNat := by
  have := a.isLt
  simp only [addrWord, BitVec.toNat_setWidth]
  omega

@[simp] theorem byteWord_toNat (b : Byte) : (byteWord b).toNat = b.toNat := by
  have := b.isLt
  simp only [byteWord, BitVec.toNat_setWidth]
  omega

/-- The high nibble of `nnn` is its quotient by 256. -/
theorem addr_high_nibble (nnn : Addr) : nnn.extractLsb' 8 4 = BitVec.ofNat 4 (nnn.toNat / 256) := by
  apply BitVec.eq_of_toNat_eq
  simp [Nat.shiftRight_eq_div_pow]

/-! ## Flags (R11, R92) -/

@[simp] theorem flagByte_toNat (f : Bool) : (flagByte f).toNat = f.toNat := by
  cases f <;> rfl

theorem flagByte_eq (f : Bool) : flagByte f = if f = true then 1 else 0 := by
  cases f <;> rfl

end Sys2Proof.Machine
end

