-- ==== Sys2Proof/Laws/PerInstr.lean ====
section
/-!
SUPPORT. The family `RowFormat`, one lemma per instruction: its word selects the row of the opcode map that
bears its name (spec/30_encoding.md R52, R55).
-/

namespace Sys2Proof.Laws.RowFormat

/-- The word of `i` selects the row named after `i`: `w AND mask = match` (R55). -/
def Statement (i : Instr) : Prop :=
  ∃ r ∈ opcodeRows, r.mnemonic = i.mnemonic ∧ r.selects (encode i) = true

theorem of_masked {i : Instr} (r : OpcodeRow) (hr : r ∈ opcodeRows) (hm : r.mnemonic = i.mnemonic)
    (hw : encode i &&& r.mask = r.pattern) : Statement i :=
  ⟨r, hr, hm, by simp [OpcodeRow.selects, hw]⟩

/-! ## Format Z -/

theorem clearDisplay : Statement .clearDisplay := of_masked ⟨"00E0", 0x00E0, 0xFFFF⟩ (by decide) rfl rfl
theorem ret : Statement .ret := of_masked ⟨"00EE", 0x00EE, 0xFFFF⟩ (by decide) rfl rfl

/-! ## Format A -/

theorem jump (nnn : Addr) : Statement (.jump nnn) :=
  of_masked ⟨"1NNN", 0x1000, 0xF000⟩ (by decide) rfl ((encodeA_masked 0x1 nnn).trans rfl)
theorem call (nnn : Addr) : Statement (.call nnn) :=
  of_masked ⟨"2NNN", 0x2000, 0xF000⟩ (by decide) rfl ((encodeA_masked 0x2 nnn).trans rfl)
theorem loadIndex (nnn : Addr) : Statement (.loadIndex nnn) :=
  of_masked ⟨"ANNN", 0xA000, 0xF000⟩ (by decide) rfl ((encodeA_masked 0xA nnn).trans rfl)
theorem jumpOffset (nnn : Addr) : Statement (.jumpOffset nnn) :=
  of_masked ⟨"BNNN", 0xB000, 0xF000⟩ (by decide) rfl ((encodeA_masked 0xB nnn).trans rfl)

/-! ## Format XI -/

theorem skipEqImm (x : Nibble) (nn : Byte) : Statement (.skipEqImm x nn) :=
  of_masked ⟨"3XNN", 0x3000, 0xF000⟩ (by decide) rfl ((encodeXI_masked 0x3 x nn).trans rfl)
theorem skipNeImm (x : Nibble) (nn : Byte) : Statement (.skipNeImm x nn) :=
  of_masked ⟨"4XNN", 0x4000, 0xF000⟩ (by decide) rfl ((encodeXI_masked 0x4 x nn).trans rfl)
theorem loadImm (x : Nibble) (nn : Byte) : Statement (.loadImm x nn) :=
  of_masked ⟨"6XNN", 0x6000, 0xF000⟩ (by decide) rfl ((encodeXI_masked 0x6 x nn).trans rfl)
theorem addImm (x : Nibble) (nn : Byte) : Statement (.addImm x nn) :=
  of_masked ⟨"7XNN", 0x7000, 0xF000⟩ (by decide) rfl ((encodeXI_masked 0x7 x nn).trans rfl)
theorem random (x : Nibble) (nn : Byte) : Statement (.random x nn) :=
  of_masked ⟨"CXNN", 0xC000, 0xF000⟩ (by decide) rfl ((encodeXI_masked 0xC x nn).trans rfl)

/-! ## Format XY -/

theorem skipEqReg (x y : Nibble) : Statement (.skipEqReg x y) :=
  of_masked ⟨"5XY0", 0x5000, 0xF00F⟩ (by decide) rfl ((encodeXY_masked 0x5 x y 0x0).trans rfl)
theorem move (x y : Nibble) : Statement (.move x y) :=
  of_masked ⟨"8XY0", 0x8000, 0xF00F⟩ (by decide) rfl ((encodeXY_masked 0x8 x y 0x0).trans rfl)
theorem orReg (x y : Nibble) : Statement (.orReg x y) :=
  of_masked ⟨"8XY1", 0x8001, 0xF00F⟩ (by decide) rfl ((encodeXY_masked 0x8 x y 0x1).trans rfl)
theorem andReg (x y : Nibble) : Statement (.andReg x y) :=
  of_masked ⟨"8XY2", 0x8002, 0xF00F⟩ (by decide) rfl ((encodeXY_masked 0x8 x y 0x2).trans rfl)
theorem xorReg (x y : Nibble) : Statement (.xorReg x y) :=
  of_masked ⟨"8XY3", 0x8003, 0xF00F⟩ (by decide) rfl ((encodeXY_masked 0x8 x y 0x3).trans rfl)
theorem addReg (x y : Nibble) : Statement (.addReg x y) :=
  of_masked ⟨"8XY4", 0x8004, 0xF00F⟩ (by decide) rfl ((encodeXY_masked 0x8 x y 0x4).trans rfl)
theorem sub (x y : Nibble) : Statement (.sub x y) :=
  of_masked ⟨"8XY5", 0x8005, 0xF00F⟩ (by decide) rfl ((encodeXY_masked 0x8 x y 0x5).trans rfl)
theorem shiftRight (x y : Nibble) : Statement (.shiftRight x y) :=
  of_masked ⟨"8XY6", 0x8006, 0xF00F⟩ (by decide) rfl ((encodeXY_masked 0x8 x y 0x6).trans rfl)
theorem subN (x y : Nibble) : Statement (.subN x y) :=
  of_masked ⟨"8XY7", 0x8007, 0xF00F⟩ (by decide) rfl ((encodeXY_masked 0x8 x y 0x7).trans rfl)
theorem shiftLeft (x y : Nibble) : Statement (.shiftLeft x y) :=
  of_masked ⟨"8XYE", 0x800E, 0xF00F⟩ (by decide) rfl ((encodeXY_masked 0x8 x y 0xE).trans rfl)
theorem skipNeReg (x y : Nibble) : Statement (.skipNeReg x y) :=
  of_masked ⟨"9XY0", 0x9000, 0xF00F⟩ (by decide) rfl ((encodeXY_masked 0x9 x y 0x0).trans rfl)

/-! ## Format XYN -/

theorem draw (x y n : Nibble) : Statement (.draw x y n) :=
  of_masked ⟨"DXYN", 0xD000, 0xF000⟩ (by decide) rfl ((encodeXYN_masked 0xD x y n).trans rfl)

/-! ## Format XF -/

theorem skipKey (x : Nibble) : Statement (.skipKey x) :=
  of_masked ⟨"EX9E", 0xE09E, 0xF0FF⟩ (by decide) rfl ((encodeXF_masked 0xE x 0x9E).trans rfl)
theorem skipNotKey (x : Nibble) : Statement (.skipNotKey x) :=
  of_masked ⟨"EXA1", 0xE0A1, 0xF0FF⟩ (by decide) rfl ((encodeXF_masked 0xE x 0xA1).trans rfl)
theorem getDelay (x : Nibble) : Statement (.getDelay x) :=
  of_masked ⟨"FX07", 0xF007, 0xF0FF⟩ (by decide) rfl ((encodeXF_masked 0xF x 0x07).trans rfl)
theorem waitKey (x : Nibble) : Statement (.waitKey x) :=
  of_masked ⟨"FX0A", 0xF00A, 0xF0FF⟩ (by decide) rfl ((encodeXF_masked 0xF x 0x0A).trans rfl)
theorem setDelay (x : Nibble) : Statement (.setDelay x) :=
  of_masked ⟨"FX15", 0xF015, 0xF0FF⟩ (by decide) rfl ((encodeXF_masked 0xF x 0x15).trans rfl)
theorem setSound (x : Nibble) : Statement (.setSound x) :=
  of_masked ⟨"FX18", 0xF018, 0xF0FF⟩ (by decide) rfl ((encodeXF_masked 0xF x 0x18).trans rfl)
theorem addIndex (x : Nibble) : Statement (.addIndex x) :=
  of_masked ⟨"FX1E", 0xF01E, 0xF0FF⟩ (by decide) rfl ((encodeXF_masked 0xF x 0x1E).trans rfl)
theorem fontAddr (x : Nibble) : Statement (.fontAddr x) :=
  of_masked ⟨"FX29", 0xF029, 0xF0FF⟩ (by decide) rfl ((encodeXF_masked 0xF x 0x29).trans rfl)
theorem bcd (x : Nibble) : Statement (.bcd x) :=
  of_masked ⟨"FX33", 0xF033, 0xF0FF⟩ (by decide) rfl ((encodeXF_masked 0xF x 0x33).trans rfl)
theorem saveRegs (x : Nibble) : Statement (.saveRegs x) :=
  of_masked ⟨"FX55", 0xF055, 0xF0FF⟩ (by decide) rfl ((encodeXF_masked 0xF x 0x55).trans rfl)
theorem loadRegs (x : Nibble) : Statement (.loadRegs x) :=
  of_masked ⟨"FX65", 0xF065, 0xF0FF⟩ (by decide) rfl ((encodeXF_masked 0xF x 0x65).trans rfl)

end Sys2Proof.Laws.RowFormat
end

