-- ==== Sys2Proof/Laws/Registers.lean ====
section
/-!
SUPPORT. The laws of the general registers, the flag and the register block (spec/10_state.md R10, R11,
spec/41_load_and_alu.md R93, spec/42_index_and_memory.md R99, R100).
-/

namespace Sys2Proof.Machine

/-- Two states with the same register array have the same registers. -/
theorem State.reg_congr {s t : State} (h : s.v = t.v) (r : Nibble) : s.reg r = t.reg r := by
  simp [State.reg, h]

@[simp] theorem State.reg_setReg (s : State) (x : Nibble) (b : Byte) (r : Nibble) :
    (s.setReg x b).reg r = if r = x then b else s.reg r := by
  simp only [State.reg, State.setReg, Vector.getElem_set]
  by_cases h : r = x
  · simp [h]
  · have : ¬ x.toNat = r.toNat := fun e => h (BitVec.eq_of_toNat_eq e.symm)
    simp [h, this]

@[simp] theorem State.reg_setFlag (s : State) (f : Bool) (r : Nibble) :
    (s.setFlag f).reg r = if r = vf then flagByte f else s.reg r := by
  simp [State.setFlag]

/-- The flag is what VF holds afterwards, whatever the destination (R93). -/
@[simp] theorem State.reg_setResult (s : State) (x : Nibble) (b : Byte) (f : Bool) (r : Nibble) :
    (s.setResult x b f).reg r = if r = vf then flagByte f else if r = x then b else s.reg r := by
  simp [State.setResult]

@[simp] theorem State.reg_jumpTo (s : State) (a : Word) (r : Nibble) : (s.jumpTo a).reg r = s.reg r := rfl
@[simp] theorem State.reg_advance (s : State) (r : Nibble) : s.advance.reg r = s.reg r := rfl
@[simp] theorem State.reg_skipIf (s : State) (c : Bool) (r : Nibble) : (s.skipIf c).reg r = s.reg r := rfl
@[simp] theorem State.reg_raise (s : State) (c : Cause) (w : Word) (r : Nibble) : (s.raise c w).reg r = s.reg r := rfl
@[simp] theorem State.reg_setIndex (s : State) (w : Word) (r : Nibble) : (s.setIndex w).reg r = s.reg r := rfl
@[simp] theorem State.reg_storeBlock (s : State) (bs : List Byte) (r : Nibble) : (s.storeBlock bs).reg r = s.reg r := rfl
@[simp] theorem State.reg_afterBlock (s : State) (k : Nat) (r : Nibble) : (s.afterBlock k).reg r = s.reg r :=
  State.reg_congr (by simp) r

/-! ## The register block (R99, R100) -/

@[simp] theorem State.regsTo_length (s : State) (x : Nibble) : (s.regsTo x).length = x.toNat + 1 := by
  simp [State.regsTo]

theorem State.regsTo_getElem? (s : State) (x : Nibble) (k : Nat) :
    (s.regsTo x)[k]? = if k ≤ x.toNat then some (s.reg (BitVec.ofNat 4 k)) else none := by
  simp only [State.regsTo, List.getElem?_map]
  by_cases h : k < x.toNat + 1
  · simp [h, Nat.le_of_lt_succ h]
  · have h' : ¬ k ≤ x.toNat := by omega
    simp [h, h']

/-- Register `r` after a block of bytes went to the registers from number `k` on, none of them past `VF`. -/
theorem State.reg_setRegsFrom (s : State) (k : Nat) (bs : List Byte) (h : k + bs.length ≤ 16) (r : Nibble) :
    (s.setRegsFrom k bs).reg r =
      if k ≤ r.toNat then (bs[r.toNat - k]?).getD (s.reg r) else s.reg r := by
  induction bs generalizing s k with
  | nil => simp [State.setRegsFrom]
  | cons b bs ih =>
    simp only [List.length_cons] at h
    simp only [State.setRegsFrom]
    rw [ih _ _ (by omega), State.reg_setReg]
    have hk : (BitVec.ofNat 4 k).toNat = k := by
      simp only [BitVec.toNat_ofNat]
      omega
    have hiff : r = BitVec.ofNat 4 k ↔ r.toNat = k :=
      ⟨fun e => by rw [e, hk], fun e => BitVec.eq_of_toNat_eq (by rw [hk, e])⟩
    rcases Nat.lt_trichotomy r.toNat k with hlt | heq | hgt
    · have h1 : ¬ k + 1 ≤ r.toNat := by omega
      have h2 : ¬ k ≤ r.toNat := by omega
      have h3 : ¬ r = BitVec.ofNat 4 k := fun e => by have := hiff.mp e; omega
      simp [h1, h2, h3]
    · have h1 : ¬ k + 1 ≤ r.toNat := by omega
      have h3 : r = BitVec.ofNat 4 k := hiff.mpr heq
      have h2 : k ≤ r.toNat := by omega
      have h4 : r.toNat - k = 0 := by omega
      simp only [if_neg h1, if_pos h2, if_pos h3, h4]
      rfl
    · have h1 : k + 1 ≤ r.toNat := by omega
      have h2 : k ≤ r.toNat := by omega
      have h3 : ¬ r = BitVec.ofNat 4 k := fun e => by have := hiff.mp e; omega
      have h4 : r.toNat - k = (r.toNat - (k + 1)) + 1 := by omega
      simp [h1, h2, h3, h4]

end Sys2Proof.Machine
end

