-- ==== Sys2Proof/Laws/Step.lean ====
section
/-!
SUPPORT. What one step of the machine can do: one lemma per event (spec/00_scope.md R7), and one that says
everything a `Step` can answer (spec/40_fetch_and_control_flow.md R65, spec/60_exceptions.md R141).
-/

namespace Sys2Proof.Machine

/-- A step performs the next event in the state with that event taken off the list. -/
theorem step_eq {s : State} {e : Event} (h : s.nextEvent = e) : step s = s.dropEvent.perform e := by
  simp [step, h]

theorem nextEvent_cons {s : State} {e : Event} {es : List Event} (h : s.events = e :: es) : s.nextEvent = e := by
  simp [State.nextEvent, h]

/-- Everything the cycle can do: a halted core does nothing, a waiting core polls, and otherwise the word at
`pc` is out of range, unassigned, or executed. -/
theorem cycle_cases (s : State) :
    (s.fault.valid = true ∧ s.cycle = .next s) ∨
    (s.fault.valid = false ∧ s.awaitingKey = true ∧ s.cycle = .next s.pollKey) ∨
    (s.fault.valid = false ∧ s.awaitingKey = false ∧ 0x0FFE < s.pc.toNat ∧
      s.cycle = .next (s.raise .fetchRange s.pc)) ∨
    (s.fault.valid = false ∧ s.awaitingKey = false ∧ s.pc.toNat ≤ 0x0FFE ∧
      decode s.fetchWord = .unknown s.fetchWord ∧ s.cycle = .next (s.raise .unknownOpcode s.fetchWord)) ∨
    (s.fault.valid = false ∧ s.awaitingKey = false ∧ s.pc.toNat ≤ 0x0FFE ∧
      ∃ i, decode s.fetchWord = .known i ∧ s.cycle = exec i s) := by
  unfold State.cycle State.fetchInRange State.execWord
  cases hf : s.fault.valid with
  | true => simp
  | false =>
    cases ha : s.awaitingKey with
    | true => simp
    | false =>
      by_cases hp : s.pc.toNat ≤ 0x0FFE
      · unfold decode
        cases hd : decodeInstr s.fetchWord with
        | none => simp [hp]
        | some i => simp [hp]
      · simp [hp]
        omega

/-- A `Step` is the cycle on the state with its inputs presented, unless a load has failed (R162). -/
theorem step_of_step {s : State} {k : Word} {r : Byte} (h : s.nextEvent = .step k r) (hp : s.phase ≠ .loadFailed) :
    step s = (s.dropEvent.present k r).cycle := by
  rw [step_eq h]
  unfold State.perform State.unlessFailed
  cases hs : s.phase <;> simp_all

/-- A `Tick` decrements the timers, unless a load has failed (R145, R162). -/
theorem step_of_tick {s : State} (h : s.nextEvent = .tick) (hp : s.phase ≠ .loadFailed) :
    step s = .next s.dropEvent.tick := by
  rw [step_eq h]
  unfold State.perform State.unlessFailed
  cases hs : s.phase <;> simp_all

theorem step_of_reset {s : State} {c : Config} (h : s.nextEvent = .reset c) :
    step s = s.dropEvent.hostReset c := by
  rw [step_eq h]
  rfl

/-- After a failed load every event but `Reset` is stuck (R162). -/
theorem step_stuck {s : State} (hp : s.phase = .loadFailed) (h : ∀ c, s.nextEvent ≠ .reset c) :
    step s = .fault .stuckAfterFailedLoad := by
  unfold step
  cases he : s.nextEvent with
  | reset c => exact absurd he (h c)
  | _ => simp [State.perform, State.whileLoading, State.unlessFailed, hp]

/-- A load is a transition only while loading (R41, D36). -/
theorem whileLoading_eq_next {s t u : State} (h : s.whileLoading t = .next u) : s.phase = .loading ∧ u = t := by
  unfold State.whileLoading at h
  split at h
  · exact ⟨‹_›, by simpa using h.symm⟩
  all_goals cases h

theorem unlessFailed_eq_next {s u : State} {r : Host.Outcome State Fault Refusal}
    (h : s.unlessFailed r = .next u) : s.phase ≠ .loadFailed ∧ r = .next u := by
  unfold State.unlessFailed at h
  split at h
  · cases h
  · exact ⟨by simpa using ‹_›, h⟩

/-- Everything an answered step can be: one transition of one event. -/
theorem step_eq_next {s t : State} (h : step s = .next t) :
    (∃ c, s.nextEvent = .reset c ∧ c.wellFormed = true ∧
      t = { State.resetWith c s.param with events := s.events.tail, drawn := s.drawn + 1 }) ∨
    (∃ image, s.nextEvent = .loadProgram image ∧ s.phase = .loading ∧ t = s.dropEvent.loadProgram image) ∨
    (∃ font, s.nextEvent = .loadFont font ∧ s.phase = .loading ∧ t = s.dropEvent.loadFont font) ∨
    (s.nextEvent = .loadUnreadable ∧ s.phase = .loading ∧ t = s.dropEvent.failLoad) ∨
    (∃ k r, s.nextEvent = .step k r ∧ s.phase ≠ .loadFailed ∧ (s.dropEvent.present k r).cycle = .next t) ∨
    (s.nextEvent = .tick ∧ s.phase ≠ .loadFailed ∧ t = s.dropEvent.tick) := by
  cases he : s.nextEvent with
  | reset c =>
    rw [step_of_reset he] at h
    unfold State.hostReset at h
    split at h
    · exact .inl ⟨c, rfl, ‹_›, by simpa using h.symm⟩
    · cases h
  | loadProgram image =>
    rw [step_eq he] at h
    obtain ⟨h1, h2⟩ := whileLoading_eq_next h
    exact .inr (.inl ⟨image, rfl, h1, h2⟩)
  | loadFont font =>
    rw [step_eq he] at h
    obtain ⟨h1, h2⟩ := whileLoading_eq_next h
    exact .inr (.inr (.inl ⟨font, rfl, h1, h2⟩))
  | loadUnreadable =>
    rw [step_eq he] at h
    obtain ⟨h1, h2⟩ := whileLoading_eq_next h
    exact .inr (.inr (.inr (.inl ⟨rfl, h1, h2⟩)))
  | step k r =>
    rw [step_eq he] at h
    obtain ⟨h1, h2⟩ := unlessFailed_eq_next h
    exact .inr (.inr (.inr (.inr (.inl ⟨k, r, rfl, h1, h2⟩))))
  | tick =>
    rw [step_eq he] at h
    obtain ⟨h1, h2⟩ := unlessFailed_eq_next h
    exact .inr (.inr (.inr (.inr (.inr ⟨rfl, h1, by simpa using h2.symm⟩))))

/-! ## Runs -/

@[simp] theorem core_run_zero (s : State) : core.run 0 s = .next s := rfl

/-- A run whose first step answers goes on from the state answered. -/
theorem core_run_succ {s t : State} (n : Nat) (h : step s = .next t) : core.run (n + 1) s = core.run n t := by
  have h' : core.step s = .next t := h
  simp only [Host.Core.run, h']

/-! ## The polling step (R121) -/

/-- No key is found iff none is pressed. -/
theorem lowestKey_eq_none {keys : Word} : lowestKey keys = none ↔ keys = 0 := by
  unfold lowestKey
  rw [List.find?_eq_none]
  constructor
  · intro h
    apply BitVec.eq_of_getLsbD_eq
    intro i hi
    simpa using h i (List.mem_range.mpr hi)
  · intro h i _
    simp [h]

/-- The key found is the lowest-numbered one pressed. -/
theorem lowestKey_eq_some {keys : Word} {k : Nat} (h : lowestKey keys = some k) :
    k < 16 ∧ keys.getLsbD k = true ∧ ∀ j < k, keys.getLsbD j = false := by
  unfold lowestKey at h
  rw [List.find?_range_eq_some] at h
  obtain ⟨h1, h2, h3⟩ := h
  exact ⟨by simpa using h2, h1, fun j hj => by simpa using h3 j hj⟩

/-! ## The timer tick (R145) -/

@[simp] theorem tickTimer_toNat (t : Byte) : (tickTimer t).toNat = t.toNat - 1 := by
  unfold tickTimer
  split
  · simp_all
  · rename_i h
    have h0 : t.toNat ≠ 0 := fun e => h (BitVec.eq_of_toNat_eq e)
    have := t.isLt
    rw [BitVec.toNat_sub, show (1 : Byte).toNat = 1 from rfl]
    omega

end Sys2Proof.Machine
end

