-- ==== Sys2Proof/Tests/Slice0.lean ====
section
/-!
SUPPORT. The model's own tests. Words are written out from the encodings of spec/30_encoding.md R55 and R62;
expected results are the rows of spec/95_test_vectors.md (tables 2.1 to 2.7) unless a comment says otherwise.
Last come the witnesses: for every statement with hypotheses, concrete values that meet them together.
-/

namespace Sys2Proof.Tests

open Sys2Proof Sys2Proof.Machine

/-! ## WellFormed: every check refuses an ill-formed term (R5, R41) -/

theorem test_font_start_last_legal : Config.wellFormed { fontStart := 0x0FB0 } = true := by decide
theorem test_font_start_too_high : Config.wellFormed { fontStart := 0x0FB1 } = false := by decide
theorem test_image_longest_legal : programFits (List.replicate 3584 0) = true := by
  rw [programFits, List.length_replicate]; rfl
theorem test_image_too_long : programFits (List.replicate 3585 0) = false := by
  rw [programFits, List.length_replicate]; rfl

/-! ## Decode: one word per constructor, and words of no row (R54, R55, R56) -/

theorem test_decode_clearDisplay : decode 0b0000000011100000 = .known .clearDisplay := by decide
theorem test_decode_ret : decode 0b0000000011101110 = .known .ret := by decide
theorem test_decode_jump : decode 0b0001101010111100 = .known (.jump 0xABC) := by decide
theorem test_decode_call : decode 0b0010111111111111 = .known (.call 0xFFF) := by decide
theorem test_decode_skipEqImm : decode 0b0011000001000010 = .known (.skipEqImm 0x0 0x42) := by decide
theorem test_decode_skipNeImm : decode 0b0100111110000001 = .known (.skipNeImm 0xF 0x81) := by decide
theorem test_decode_skipEqReg : decode 0b0101001010100000 = .known (.skipEqReg 0x2 0xA) := by decide
theorem test_decode_loadImm : decode 0b0110111110101011 = .known (.loadImm 0xF 0xAB) := by decide
theorem test_decode_addImm : decode 0b0111000111111111 = .known (.addImm 0x1 0xFF) := by decide
theorem test_decode_move : decode 0b1000001101000000 = .known (.move 0x3 0x4) := by decide
theorem test_decode_orReg : decode 0b1000001101000001 = .known (.orReg 0x3 0x4) := by decide
theorem test_decode_andReg : decode 0b1000001101000010 = .known (.andReg 0x3 0x4) := by decide
theorem test_decode_xorReg : decode 0b1000001101000011 = .known (.xorReg 0x3 0x4) := by decide
theorem test_decode_addReg : decode 0b1000001101000100 = .known (.addReg 0x3 0x4) := by decide
theorem test_decode_sub : decode 0b1000001101000101 = .known (.sub 0x3 0x4) := by decide
theorem test_decode_shiftRight : decode 0b1000001101000110 = .known (.shiftRight 0x3 0x4) := by decide
theorem test_decode_subN : decode 0b1000001101000111 = .known (.subN 0x3 0x4) := by decide
theorem test_decode_shiftLeft : decode 0b1000001101001110 = .known (.shiftLeft 0x3 0x4) := by decide
theorem test_decode_skipNeReg : decode 0b1001001010100000 = .known (.skipNeReg 0x2 0xA) := by decide
theorem test_decode_loadIndex : decode 0b1010001000001100 = .known (.loadIndex 0x20C) := by decide
theorem test_decode_jumpOffset : decode 0b1011001000010000 = .known (.jumpOffset 0x210) := by decide
theorem test_decode_random : decode 0b1100010100001111 = .known (.random 0x5 0x0F) := by decide
theorem test_decode_draw : decode 0b1101000100100101 = .known (.draw 0x1 0x2 0x5) := by decide
theorem test_decode_skipKey : decode 0b1110101110011110 = .known (.skipKey 0xB) := by decide
theorem test_decode_skipNotKey : decode 0b1110101110100001 = .known (.skipNotKey 0xB) := by decide
theorem test_decode_getDelay : decode 0b1111010000000111 = .known (.getDelay 0x4) := by decide
theorem test_decode_waitKey : decode 0b1111001100001010 = .known (.waitKey 0x3) := by decide
theorem test_decode_setDelay : decode 0b1111101000010101 = .known (.setDelay 0xA) := by decide
theorem test_decode_setSound : decode 0b1111101000011000 = .known (.setSound 0xA) := by decide
theorem test_decode_addIndex : decode 0b1111111100011110 = .known (.addIndex 0xF) := by decide
theorem test_decode_fontAddr : decode 0b1111000100101001 = .known (.fontAddr 0x1) := by decide
theorem test_decode_bcd : decode 0b1111000100110011 = .known (.bcd 0x1) := by decide
theorem test_decode_saveRegs : decode 0b1111001001010101 = .known (.saveRegs 0x2) := by decide
theorem test_decode_loadRegs : decode 0b1111111101100101 = .known (.loadRegs 0xF) := by decide

/-- The unassigned words of table 2.1 (R56). -/
theorem test_decode_unknown :
    [0x0000, 0x00E1, 0x01E0, 0x00FD, 0x5011, 0x9011, 0x8018, 0x801F, 0xE09F, 0xF000, 0xF075].all
      (fun w => decode w == .unknown w) = true := by decide

/-- A decoder on bytes refuses by name: one byte, and a word of no row. -/
theorem test_decode_bytes_refuses :
    decodeBytes [0x60] = .error .truncated ∧ decodeBytes [0x80, 0x18] = .error (.unknownOpcode 0x8018) :=
  ⟨rfl, rfl⟩

/-- The first byte is the high one (R33). -/
theorem test_decode_bytes_big_endian : decodeBytes [0x12, 0x08, 0x77] = .ok (.jump 0x208, [0x77]) := rfl

/-! ## Single steps -/

/-- An outcome is a next state with the property. -/
def answers (o : Host.Outcome State Fault Refusal) (p : State → Bool) : Bool :=
  match o with
  | .next t => p t
  | _ => false

/-- One step that fetches and runs the word `w`, and a property of the state it leaves. -/
def after (s : State) (w : Nat) (p : State → Bool) : Bool := answers (step (s.withFetchWord 16 w)) p

/-- One step that performs the event, and a property of the state it leaves. -/
def afterEvent (s : State) (e : Event) (p : State → Bool) : Bool := answers (step { s with events := [e] }) p

/-- The reset state with some registers set. -/
def regs (l : List (Nibble × Byte)) : State := l.foldl (fun s e => s.setReg e.1 e.2) State.reset

/-- The reset state with `I`, some bytes at `I`, and some registers set. -/
def block (i : Word) (bs : List Byte) (l : List (Nibble × Byte)) : State :=
  { regs l with index := i, mem := Memory.writeBlock [] i.toNat bs }

/-- The buffer's lit pixels are exactly those of the list (column, row). -/
def lit (fb : Frame) (l : List (Nat × Nat)) : Bool :=
  fb.toList == (l.foldl (fun f e => Frame.flip f e.2 e.1) Frame.cleared).toList

/-- The fault record holds this fault, and the registers are as in `s`. -/
def faults (s : State) (cause : BitVec 3) (pc info : Word) (t : State) : Bool :=
  t.fault == ⟨true, cause, pc, info⟩ && t.pc == pc && t.v.toList == s.v.toList && t.index == s.index && t.sp == s.sp

/-! ### Fetch (2.1) -/

theorem test_fetch_odd_pc : after { State.reset with pc := 0x0201 } 0x6112 (fun t =>
    t.reg 0x1 == 0x12 && t.pc == 0x0203) = true := by decide
theorem test_fetch_last_word : after { State.reset with pc := 0x0FFE } 0x6000 (fun t =>
    t.pc == 0x1000 && t.noFault) = true := by decide
theorem test_fetch_range : after { State.reset with pc := 0x0FFF } 0x6000 (fun t =>
    faults { State.reset with pc := 0x0FFF } 1 0x0FFF 0x0FFF t) = true := by decide
theorem test_unknown_opcode : after State.reset 0x8018 (faults State.reset 2 0x0200 0x8018) = true := by decide
theorem test_zeroed_memory : afterEvent State.reset (.step 0 0) (faults State.reset 2 0x0200 0x0000) = true := by
  decide
theorem test_halted_step :
    let s := { State.reset with fault := ⟨true, 4, 0x0200, 0⟩ }
    after s 0x6112 (fun t => t.reg 0x1 == 0 && t.pc == 0x0200 && t.fault == s.fault) = true := by decide

/-! ### Control flow (2.2) -/

theorem test_jump : after State.reset 0x1ABC (fun t => t.pc == 0x0ABC) = true := by decide
theorem test_call_last_entry : after { State.reset with sp := 31 } 0x2300 (fun t =>
    t.stack[31] == 0x0202 && t.sp == 32 && t.pc == 0x0300) = true := by decide
theorem test_call_overflow : after { State.reset with sp := 32 } 0x2300 (faults { State.reset with sp := 32 } 3 0x0200 0x0020) = true := by
  decide
theorem test_ret_last_entry :
    after { State.reset with sp := 32, stack := (Vector.replicate 32 0).set 31 0x033E } 0x00EE (fun t =>
      t.pc == 0x033E && t.sp == 31) = true := by decide
theorem test_ret_underflow : after State.reset 0x00EE (faults State.reset 4 0x0200 0x0000) = true := by decide
theorem test_skipEqImm : (after (regs [(0, 0x42)]) 0x3042 (fun t => t.pc == 0x0204) &&
    after (regs [(0, 0x41)]) 0x3042 (fun t => t.pc == 0x0202)) = true := by decide
theorem test_skipNeImm : (after (regs [(0, 0x42)]) 0x4042 (fun t => t.pc == 0x0202) &&
    after (regs [(0, 0x41)]) 0x4042 (fun t => t.pc == 0x0204)) = true := by decide
theorem test_skipEqReg : (after (regs [(0, 0x07), (1, 0x07)]) 0x5010 (fun t => t.pc == 0x0204) &&
    after (regs [(0, 0x07), (1, 0x08)]) 0x5010 (fun t => t.pc == 0x0202)) = true := by decide
theorem test_skipNeReg : (after (regs [(0, 0x07), (1, 0x07)]) 0x9010 (fun t => t.pc == 0x0202) &&
    after (regs [(0, 0x07), (1, 0x08)]) 0x9010 (fun t => t.pc == 0x0204)) = true := by decide
theorem test_jumpOffset : (after (regs [(0, 0x04), (2, 0x10)]) 0xB210 (fun t => t.pc == 0x0220) &&
    after { regs [(0, 0x04), (2, 0x10)] with cfg := { offJumpLegacy := true } } 0xB210 (fun t => t.pc == 0x0214)) = true := by
  decide
theorem test_jumpOffset_not_reduced : after (regs [(0xF, 0xFF)]) 0xBFFF (fun t => t.pc == 0x10FE) = true := by decide

/-! ### Load, ALU, random (2.3) -/

theorem test_loadImm : after State.reset 0x6FAB (fun t => t.reg 0xF == 0xAB && t.pc == 0x0202) = true := by decide
theorem test_addImm_wraps : (after (regs [(0, 0xFE)]) 0x7003 (fun t => t.reg 0 == 0x01 && t.reg 0xF == 0x00) &&
    after (regs [(0xF, 0x01)]) 0x7FFF (fun t => t.reg 0xF == 0x00)) = true := by decide
theorem test_move : after (regs [(1, 0x33)]) 0x8010 (fun t => t.reg 0 == 0x33 && t.reg 1 == 0x33) = true := by decide
theorem test_orReg : after (regs [(0, 0xF0), (1, 0x0F), (0xF, 0x5A)]) 0x8011 (fun t =>
    t.reg 0 == 0xFF && t.reg 0xF == 0x5A) = true := by decide
theorem test_andReg : after (regs [(0, 0xF0), (1, 0x3C)]) 0x8012 (fun t => t.reg 0 == 0x30) = true := by decide
theorem test_xorReg : (after (regs [(0, 0xFF), (1, 0x0F)]) 0x8013 (fun t => t.reg 0 == 0xF0) &&
    after (regs [(0, 0x77)]) 0x8003 (fun t => t.reg 0 == 0x00)) = true := by decide
theorem test_addReg : (after (regs [(0, 0x05), (1, 0x08)]) 0x8014 (fun t => t.reg 0 == 0x0D && t.reg 0xF == 0x00) &&
    after (regs [(0, 0xFF), (1, 0x01)]) 0x8014 (fun t => t.reg 0 == 0x00 && t.reg 0xF == 0x01)) = true := by decide
theorem test_addReg_vf : (after (regs [(0xF, 0x10), (1, 0x20)]) 0x8F14 (fun t => t.reg 0xF == 0x00) &&
    after (regs [(0, 0x01), (0xF, 0xFF)]) 0x80F4 (fun t => t.reg 0 == 0x00 && t.reg 0xF == 0x01)) = true := by decide
theorem test_sub : (after (regs [(0, 0x05), (1, 0x08)]) 0x8015 (fun t => t.reg 0 == 0xFD && t.reg 0xF == 0x00) &&
    after (regs [(0, 0x07), (1, 0x07)]) 0x8015 (fun t => t.reg 0 == 0x00 && t.reg 0xF == 0x01)) = true := by decide
theorem test_sub_vf : (after (regs [(0xF, 0x08), (1, 0x05)]) 0x8F15 (fun t => t.reg 0xF == 0x01) &&
    after (regs [(0, 0x00), (0xF, 0x01)]) 0x80F5 (fun t => t.reg 0 == 0xFF && t.reg 0xF == 0x00)) = true := by decide
theorem test_shiftRight : (after (regs [(0, 0x05), (1, 0x04)]) 0x8016 (fun t => t.reg 0 == 0x02 && t.reg 0xF == 0x01) &&
    after { regs [(0, 0x05), (1, 0x04)] with param := { shiftSrcLegacy := true } } 0x8016 (fun t =>
      t.reg 0 == 0x02 && t.reg 0xF == 0x00 && t.reg 1 == 0x04)) = true := by decide
theorem test_shiftRight_logical : (after (regs [(0, 0x80), (1, 0xFF)]) 0x8016 (fun t => t.reg 0 == 0x40 && t.reg 0xF == 0x00) &&
    after (regs [(0xF, 0x03)]) 0x8F06 (fun t => t.reg 0xF == 0x01)) = true := by decide
theorem test_subN : (after (regs [(0, 0x05), (1, 0x08)]) 0x8017 (fun t => t.reg 0 == 0x03 && t.reg 0xF == 0x01) &&
    after (regs [(0, 0x08), (1, 0x05)]) 0x8017 (fun t => t.reg 0 == 0xFD && t.reg 0xF == 0x00)) = true := by decide
theorem test_subN_vf : (after (regs [(0, 0x07), (1, 0x07)]) 0x8017 (fun t => t.reg 0 == 0x00 && t.reg 0xF == 0x01) &&
    after (regs [(0xF, 0x09), (1, 0x03)]) 0x8F17 (fun t => t.reg 0xF == 0x00)) = true := by decide
theorem test_shiftLeft : (after (regs [(0, 0x81)]) 0x801E (fun t => t.reg 0 == 0x02 && t.reg 0xF == 0x01) &&
    after { regs [(0, 0x01), (1, 0xC0)] with param := { shiftSrcLegacy := true } } 0x801E (fun t =>
      t.reg 0 == 0x80 && t.reg 0xF == 0x01)) = true := by decide
theorem test_shiftLeft_vf : after (regs [(0xF, 0x7F)]) 0x8F0E (fun t => t.reg 0xF == 0x00) = true := by decide
theorem test_random : after { State.reset with rnd := 0xA7 } 0xC00F (fun t => t.reg 0 == 0x07 && t.pc == 0x0202) = true := by
  decide

/-! ### Display (2.4) -/

theorem test_clearDisplay :
    after { regs [(0xF, 0x09)] with fb := Vector.replicate 32 (BitVec.allOnes 64) } 0x00E0 (fun t =>
      lit t.fb [] && t.reg 0xF == 0x09) = true := by decide
theorem test_draw_wraps :
    after (block 0x020C [0xC3, 0x81] [(0, 0x3E), (1, 0x1F)]) 0xD012 (fun t =>
      lit t.fb [(62, 31), (63, 31), (4, 31), (5, 31), (62, 0), (5, 0)] && t.reg 0xF == 0x00) = true := by decide
theorem test_draw_collides_and_faults :
    (after { block 0x0300 [0xFF] [] with fb := Frame.flip Frame.cleared 0 7 } 0xD011 (fun t =>
      lit t.fb [(0, 0), (1, 0), (2, 0), (3, 0), (4, 0), (5, 0), (6, 0)] && t.reg 0xF == 0x01) &&
    after (block 0x0FFF [] []) 0xD012 (faults (block 0x0FFF [] []) 5 0x0200 0x1000)) = true := by decide

/-! ### Index and memory (2.5) -/

theorem test_loadIndex : after State.reset 0xAFFF (fun t => t.index == 0x0FFF && t.pc == 0x0202) = true := by decide
theorem test_addIndex_carry :
    (after { block 0x0FFE [] [(0, 0x03), (0xF, 0x07)] with cfg := { indexAddCarry := true } } 0xF01E (fun t =>
      t.index == 0x0001 && t.reg 0xF == 0x01) &&
    after { block 0x0FF0 [] [(0, 0x0F), (0xF, 0x07)] with cfg := { indexAddCarry := true } } 0xF01E (fun t =>
      t.index == 0x0FFF && t.reg 0xF == 0x00)) = true := by decide
theorem test_addIndex_vf : after (block 0x0F01 [] [(0xF, 0xFF)]) 0xFF1E (fun t =>
    t.index == 0x0000 && t.reg 0xF == 0xFF) = true := by decide
theorem test_fontAddr : (after (regs [(0, 0x0A)]) 0xF029 (fun t => t.index == 0x0082) &&
    after { regs [(0, 0x0F)] with cfg := { fontStart := 0x0FB0 } } 0xF029 (fun t => t.index == 0x0FFB)) = true := by decide
theorem test_fontAddr_range : after (regs [(0, 0x10)]) 0xF029 (faults (regs [(0, 0x10)]) 7 0x0200 0x0010) = true := by decide
theorem test_bcd : (after (block 0x0300 [] [(0, 0xFE)]) 0xF033 (fun t =>
      Memory.readBlock t.mem 0x300 3 == [0x02, 0x05, 0x04]) &&
    after (block 0x0300 [0x09, 0x09, 0x09] [(0, 0x07)]) 0xF033 (fun t =>
      Memory.readBlock t.mem 0x300 3 == [0x00, 0x00, 0x07])) = true := by decide
theorem test_bcd_range : after (block 0x0FFE [] [(0, 0xFF)]) 0xF033 (fun t =>
    faults (block 0x0FFE [] [(0, 0xFF)]) 5 0x0200 0x1000 t && Memory.read t.mem 0xFFE == 0x00) = true := by decide
theorem test_saveRegs :
    (after (block 0x0300 [] [(0, 0x01), (1, 0x02), (2, 0x03), (3, 0x99)]) 0xF255 (fun t =>
      Memory.readBlock t.mem 0x300 4 == [0x01, 0x02, 0x03, 0x00] && t.index == 0x0300) &&
    after { block 0x0FFD [] [(0, 0x01), (1, 0x02), (2, 0x03)] with cfg := { regSaveLegacy := true } } 0xF255 (fun t =>
      Memory.readBlock t.mem 0xFFD 3 == [0x01, 0x02, 0x03] && t.index == 0x0000)) = true := by decide
theorem test_saveRegs_range : after (block 0x0FFE [] [(0, 0xFF)]) 0xF255 (fun t =>
    faults (block 0x0FFE [] [(0, 0xFF)]) 5 0x0200 0x1000 t && Memory.read t.mem 0xFFE == 0x00) = true := by decide
theorem test_loadRegs :
    after (block 0x0300 [0x02, 0x05, 0x04, 0x77] [(3, 0x99)]) 0xF265 (fun t =>
      t.reg 0 == 0x02 && t.reg 1 == 0x05 && t.reg 2 == 0x04 && t.reg 3 == 0x99 && t.index == 0x0300) = true := by decide
theorem test_loadRegs_legacy_and_vf :
    (after { block 0x0300 [0x02, 0x05, 0x04] [] with cfg := { regSaveLegacy := true } } 0xF265 (fun t =>
      t.index == 0x0303) &&
    after (block 0x0400 [0x11, 0, 0, 0, 0, 0, 0, 0, 0, 0, 0, 0, 0, 0, 0, 0xEE] [(4, 0x01)]) 0xFF65 (fun t =>
      t.reg 0 == 0x11 && t.reg 4 == 0x00 && t.reg 0xF == 0xEE)) = true := by decide

/-! ### Keypad and timers (2.6, 2.7) -/

theorem test_skipKey : (after { regs [(0, 0x0A)] with keys := 0x0400 } 0xE09E (fun t => t.pc == 0x0204) &&
    after (regs [(0, 0x0A)]) 0xE09E (fun t => t.pc == 0x0202)) = true := by decide
theorem test_skipKey_range :
    let s := { regs [(0, 0x10)] with keys := 0xFFFF }
    after s 0xE09E (faults s 6 0x0200 0x0010) = true := by decide
theorem test_skipNotKey : (after { regs [(0, 0x0A)] with keys := 0x0400 } 0xE0A1 (fun t => t.pc == 0x0202) &&
    after (regs [(0, 0x0A)]) 0xE0A1 (fun t => t.pc == 0x0204)) = true := by decide
theorem test_skipNotKey_range : after (regs [(0, 0xFF)]) 0xE0A1 (faults (regs [(0, 0xFF)]) 6 0x0200 0x00FF) = true := by
  decide
theorem test_waitKey : after { State.reset with keys := 0xFFFF } 0xF30A (fun t =>
    t.awaitingKey && t.keyReg == 0x3 && t.pc == 0x0202 && t.reg 0x3 == 0x00) = true := by decide
theorem test_getDelay : after { State.reset with dt := 0x2A } 0xF007 (fun t => t.reg 0 == 0x2A && t.dt == 0x2A) = true := by
  decide
theorem test_setDelay : after (regs [(0, 0x3C)]) 0xF015 (fun t => t.dt == 0x3C && t.st == 0x00) = true := by decide
theorem test_setSound : after (regs [(0, 0x05)]) 0xF018 (fun t => t.st == 0x05 && t.dt == 0x00) = true := by decide

/-! ### Events -/

/-- A core awaiting a key, as after `F30A` at 0x200 (2.6). -/
def waiting : State := { State.reset with pc := 0x0202, awaitingKey := true, keyReg := 0x3, phase := .running }

theorem test_poll_no_key : afterEvent waiting (.step 0x0000 0) (fun t =>
    t.awaitingKey && t.pc == 0x0202 && t.reg 0x3 == 0x00 && t.noFault) = true := by decide
theorem test_poll_lowest_key : afterEvent waiting (.step 0x0120 0) (fun t =>
    !t.awaitingKey && t.pc == 0x0202 && t.reg 0x3 == 0x05) = true := by decide
theorem test_poll_key_f : afterEvent { waiting with keyReg := 0xF } (.step 0x8000 0) (fun t =>
    !t.awaitingKey && t.reg 0xF == 0x0F) = true := by decide
theorem test_tick : afterEvent { State.reset with dt := 0xFF, st := 0x01 } .tick (fun t =>
    t.dt == 0xFE && t.st == 0x00) = true := by decide
theorem test_tick_at_zero_and_halted :
    (afterEvent State.reset .tick (fun t => t.dt == 0x00 && t.st == 0x00) &&
    afterEvent { State.reset with dt := 0x03, fault := ⟨true, 4, 0x0200, 0⟩ } .tick (fun t =>
      t.dt == 0x02 && t.fault == ⟨true, 4, 0x0200, 0⟩)) = true := by decide
/-- R160: a halted core restarts. -/
theorem test_reset_restarts :
    afterEvent { waiting with fault := ⟨true, 4, 0x0200, 0⟩, sp := 3 } (.reset { fontStart := 0x0FB0 }) (fun t =>
      t.noFault && !t.awaitingKey && t.sp == 0 && t.pc == 0x0200 && t.cfg.fontStart == 0x0FB0) = true := by decide
/-- R41: glyph 7 of R42 lies at 0x073 (program P7). -/
theorem test_load_font : afterEvent State.reset (.loadFont builtinFont) (fun t =>
    Memory.readBlock t.mem 0x073 5 == [0xF0, 0x10, 0x20, 0x40, 0x40]) = true := by decide
/-- R41: the image of program P1. -/
theorem test_load_program : afterEvent State.reset (.loadProgram [0x60, 0x05, 0x61, 0x08, 0x80, 0x14]) (fun t =>
    Memory.readBlock t.mem 0x200 6 == [0x60, 0x05, 0x61, 0x08, 0x80, 0x14]) = true := by decide

/-! ## Witnesses

For every statement of Certificates/Slice0/Obligations.lean with hypotheses, values that meet them together, one
per clause and at the boundaries of its range. -/

/-- `s` with one event chosen. -/
def chosen (s : State) (e : Event) : State := { s with events := [e] }

/-- `chosen`, for a `Step` with no key and random byte 0. -/
def stepping (s : State) : State := chosen s (.step 0x0000 0x00)

/-- The record of a halted core. -/
def underflow : FaultRecord := ⟨true, 4, 0x0200, 0x0000⟩

/-! ### Encoding -/

theorem witness_EveryAssignedWordIsTheWordOfItsInstruction : decode 0x8014 = .known (.addReg 0 1) := by decide
theorem witness_DecodedWordSelectsExactlyItsOwnRow :
    decode 0x00E0 = .known .clearDisplay ∧ decode 0x8018 = .unknown 0x8018 := by decide

/-! ### The step cycle -/

/-- The last word of memory is `6012`, and `pc` addresses it. -/
def lastWord : State := stepping { State.reset with pc := 0x0FFE, mem := [(0x0FFE, 0x60), (0x0FFF, 0x12)] }

theorem witness_StepRunsTheDecodedInstruction :
    lastWord.nextEvent = .step 0x0000 0x00 ∧ lastWord.Ready ∧ lastWord.pc.toNat ≤ 0x0FFE ∧
    Memory.read lastWord.mem lastWord.pc.toNat = 0x60 ∧ Memory.read lastWord.mem (lastWord.pc.toNat + 1) = 0x12 ∧
    decode (BitVec.ofNat 16 ((0x60 : Byte).toNat * 256 + (0x12 : Byte).toNat)) = .known (.loadImm 0x0 0x12) :=
  ⟨rfl, ⟨rfl, rfl, by decide⟩, by decide, by decide, by decide, by decide⟩

theorem witness_FetchOutsideMemoryRaisesFetchRange :
    let s := stepping { State.reset with pc := 0x0FFF }
    let s' := stepping { State.reset with pc := 0x10FE }
    (s.nextEvent = .step 0x0000 0x00 ∧ s.Ready ∧ 0x0FFE < s.pc.toNat) ∧
    (s'.nextEvent = .step 0x0000 0x00 ∧ s'.Ready ∧ 0x0FFE < s'.pc.toNat) :=
  ⟨⟨rfl, ⟨rfl, rfl, by decide⟩, by decide⟩, ⟨rfl, ⟨rfl, rfl, by decide⟩, by decide⟩⟩

theorem witness_UnassignedWordRaisesUnknownOpcode :
    let s := stepping { State.reset with pc := 0x0FFE, mem := [(0x0FFE, 0x80), (0x0FFF, 0x18)] }
    s.nextEvent = .step 0x0000 0x00 ∧ s.Ready ∧ s.pc.toNat ≤ 0x0FFE ∧
    (0x8018 : Word).toNat =
      (Memory.read s.mem s.pc.toNat).toNat * 256 + (Memory.read s.mem (s.pc.toNat + 1)).toNat ∧
    ∀ r ∈ opcodeRows, r.selects 0x8018 = false :=
  ⟨rfl, ⟨rfl, rfl, by decide⟩, by decide, by decide, by decide⟩

theorem witness_HaltedCoreIgnoresEveryStep :
    let s := stepping { waiting with fault := underflow }
    s.nextEvent = .step 0x0000 0x00 ∧ s.phase ≠ .loadFailed ∧ s.fault.valid = true :=
  ⟨rfl, by decide, rfl⟩

/-- No key, the lowest key, and the highest one alone. -/
theorem witness_PollingStepTakesTheLowestPressedKey :
    ((chosen waiting (.step 0x0000 0x00)).nextEvent = .step 0x0000 0x00 ∧
      (chosen waiting (.step 0x0121 0x00)).nextEvent = .step 0x0121 0x00 ∧
      (chosen waiting (.step 0x8000 0x00)).nextEvent = .step 0x8000 0x00) ∧
    waiting.phase ≠ .loadFailed ∧ waiting.fault.valid = false ∧ waiting.awaitingKey = true ∧
    ((0x0121 : Word).getLsbD 0 = true ∧ ∀ j, j < 0 → (0x0121 : Word).getLsbD j = false) ∧
    ((0x8000 : Word).getLsbD 15 = true ∧ ∀ j, j < 15 → (0x8000 : Word).getLsbD j = false) :=
  ⟨⟨rfl, rfl, rfl⟩, by decide, rfl, rfl, by decide, by decide⟩

/-- A step that records a fault, and one that records none. -/
theorem witness_RecordedFaultIsPrecise :
    (stepping State.reset).nextEvent = .step 0x0000 0x00 ∧
    (∃ t, step (stepping State.reset) = .next t ∧ t.fault ≠ State.reset.fault) ∧
    lastWord.nextEvent = .step 0x0000 0x00 ∧ (∃ t, step lastWord = .next t ∧ t.fault = lastWord.fault) :=
  ⟨rfl, ⟨_, rfl, by decide⟩, rfl, ⟨_, rfl, by decide⟩⟩

theorem witness_FaultRecordIsStickyUntilReset :
    let s := chosen { State.reset with fault := underflow, dt := 0x03 } .tick
    s.fault.valid = true ∧ (∃ t, step s = .next t) ∧ ∀ c, s.nextEvent ≠ .reset c :=
  ⟨rfl, ⟨_, rfl⟩, fun _ h => by cases h⟩

theorem witness_StepAndTickAlwaysAnswer :
    (State.reset.phase ≠ .loadFailed ∧ (chosen State.reset .tick).nextEvent = .tick) ∧
    (waiting.phase ≠ .loadFailed ∧ (stepping waiting).nextEvent = .step 0x0000 0x00) := by
  exact ⟨⟨by decide, rfl⟩, ⟨by decide, rfl⟩⟩

/-! ### Timer tick, loads and reset -/

theorem witness_TickDecrementsBothTimersAndNothingElse :
    let s := chosen { waiting with dt := 0xFF, st := 0x00 } .tick
    s.nextEvent = .tick ∧ s.phase ≠ .loadFailed :=
  ⟨rfl, by decide⟩

theorem witness_TimersReachZeroAfterTheirCountOfTicks :
    let s := { State.reset with dt := 0x02, events := [.tick, .tick, .tick, .step 0x0000 0x00] }
    s.events = List.replicate 3 .tick ++ [.step 0x0000 0x00] ∧ s.phase ≠ .loadFailed :=
  ⟨rfl, by decide⟩

/-- A `Step` that faults, and one that sets no fault. -/
theorem witness_StrobesTogetherActAsStepThenTick :
    let s := { State.reset with dt := 0x02, events := Event.strobesTogether 0x0000 0x00 }
    let s' := { lastWord with st := 0x01, events := Event.strobesTogether 0x0000 0x00 ++ [.tick] }
    (s.events = Event.strobesTogether 0x0000 0x00 ++ [] ∧ ∃ t, step s = .next t) ∧
    (s'.events = Event.strobesTogether 0x0000 0x00 ++ [.tick] ∧ ∃ t, step s' = .next t) :=
  ⟨⟨rfl, ⟨_, rfl⟩⟩, ⟨rfl, ⟨_, rfl⟩⟩⟩

/-- A core after a failed load. -/
def failed : State := { State.reset with phase := .loadFailed }

/-- From a halted core and after a failed load, with the highest font base. -/
theorem witness_ResetRestoresTheResetValuesFromAnyState :
    let c : Config := { fontStart := 0x0FB0, regSaveLegacy := true }
    (chosen { waiting with fault := underflow } (.reset c)).nextEvent = .reset c ∧
    (chosen failed (.reset c)).nextEvent = .reset c ∧ c.fontStart.toNat ≤ 0x0FB0 :=
  ⟨rfl, rfl, by decide⟩

theorem witness_ResetRefusesAnIllFormedConfiguration :
    let c : Config := { fontStart := 0x0FB1 }
    (chosen State.reset (.reset c)).nextEvent = .reset c ∧ 0x0FB0 < c.fontStart.toNat :=
  ⟨rfl, by decide⟩

/-- The longest image and the empty one. -/
theorem witness_LoadProgramStoresTheImageAt0x200 :
    let image : List Byte := List.replicate 3584 0x12
    State.reset.phase = .loading ∧ Memory.wf State.reset.mem = true ∧
    ((chosen State.reset (.loadProgram image)).nextEvent = .loadProgram image ∧ image.length ≤ 3584) ∧
    ((chosen State.reset (.loadProgram [])).nextEvent = .loadProgram [] ∧ ([] : List Byte).length ≤ 3584) :=
  ⟨rfl, rfl, ⟨rfl, Nat.le_of_eq List.length_replicate⟩, rfl, by decide⟩

theorem witness_LoadFontStoresTheTableAtFontStart :
    let s := chosen { State.reset with cfg := { fontStart := 0x0FB0 } } (.loadFont builtinFont)
    s.nextEvent = .loadFont builtinFont ∧ s.phase = .loading ∧ s.cfg.fontStart.toNat ≤ 0x0FB0 ∧
    Memory.wf s.mem = true :=
  ⟨rfl, rfl, by decide, rfl⟩

/-- An unreadable source, an image one byte too long, and a machine whose load has failed. -/
theorem witness_FailedLoadAdmitsOnlyReset :
    let image : List Byte := List.replicate 3585 0x12
    State.reset.phase = .loading ∧ (chosen State.reset .loadUnreadable).nextEvent = .loadUnreadable ∧
    ((chosen State.reset (.loadProgram image)).nextEvent = .loadProgram image ∧ 3584 < image.length) ∧
    ((stepping failed).phase = .loadFailed ∧ ∀ c, (stepping failed).nextEvent ≠ .reset c) :=
  ⟨rfl, rfl, ⟨rfl, Nat.le_of_eq List.length_replicate.symm⟩, rfl, fun _ h => by cases h⟩

/-- A first `Step`, and each kind of load after it. -/
theorem witness_LoadAfterTheFirstStepIsRefused :
    ((stepping State.reset).nextEvent = .step 0x0000 0x00 ∧ ∃ t, step (stepping State.reset) = .next t) ∧
    waiting.phase = .running ∧ (chosen waiting (.loadProgram [0x00, 0xE0])).nextEvent = .loadProgram [0x00, 0xE0] ∧
    (chosen waiting (.loadFont builtinFont)).nextEvent = .loadFont builtinFont ∧
    (chosen waiting .loadUnreadable).nextEvent = .loadUnreadable :=
  ⟨⟨rfl, ⟨_, rfl⟩⟩, rfl, rfl, rfl, rfl⟩

/-! ### Control transfer -/

/-- One entry, a full stack, an empty stack. -/
theorem witness_ReturnPopsTheStackIntoPc :
    ({ State.reset with sp := 1 }).sp.val = (0 : Fin 32).val + 1 ∧
    ({ State.reset with sp := 32 }).sp.val = (31 : Fin 32).val + 1 ∧ State.reset.sp.val = 0 := by decide

/-- An empty stack, room for one entry, a full stack. -/
theorem witness_CallPushesTheReturnAddressAndJumps :
    State.reset.sp.val = (0 : Fin 32).val ∧ ({ State.reset with sp := 31 }).sp.val = (31 : Fin 32).val ∧
    ({ State.reset with sp := 32 }).sp.val = 32 := by decide

/-- The call fills the last entry, and the return runs in a state that differs elsewhere. -/
theorem witness_ReturnComesBackAfterTheCall :
    let s := { State.reset with sp := 31 }
    s.sp.val < 32 ∧ ∃ t, exec (.call 0x300) s = .next t ∧
      let r := { waiting with stack := t.stack, sp := t.sp }
      r.stack = t.stack ∧ r.sp = t.sp :=
  ⟨by decide, _, rfl, rfl, rfl⟩

/-! ### ALU -/

theorem witness_ShiftsWriteResultAndShiftedOutBit :
    let s := regs [(0x0, 0x05), (0x1, 0x04)]
    let s' := { s with param := { shiftSrcLegacy := true } }
    ((0x05 : Byte) = if s.param.shiftSrcLegacy then s.reg 0x1 else s.reg 0x0) ∧
    ((0x04 : Byte) = if s'.param.shiftSrcLegacy then s'.reg 0x1 else s'.reg 0x0) := by decide

/-- A flag setter, an instruction with VF as destination, and a whole-file load. -/
theorem witness_OnlyFlagSettersAndDestinationsChangeVF :
    (∃ t, exec (.addReg 0x0 0x1) (regs [(0x0, 0xFF), (0x1, 0x01)]) = .next t ∧ t.reg 0xF ≠ 0x00) ∧
    (∃ t, exec (.loadImm 0xF 0xAB) State.reset = .next t ∧ t.reg 0xF ≠ State.reset.reg 0xF) ∧
    (∃ t, exec (.loadRegs 0xF) { State.reset with mem := [(0x000F, 0xEE)] } = .next t ∧ t.reg 0xF ≠ 0x00) :=
  ⟨⟨_, rfl, by decide⟩, ⟨_, rfl, by decide⟩, ⟨_, rfl, by decide⟩⟩

/-! ### Index register and memory -/

/-- The largest digit at the highest font base, and the smallest value that is no digit. -/
theorem witness_FontAddrPointsAtTheGlyphOfADigit :
    let s := { regs [(0x0, 0x0F), (0x1, 0x10)] with cfg := { fontStart := 0x0FB0 } }
    (s.cfg.fontStart.toNat ≤ 0x0FB0 ∧ (s.reg 0x0).toNat ≤ 0x0F) ∧ 0x0F < (s.reg 0x1).toNat := by decide

theorem witness_BcdStoresThreeDecimalDigits :
    let s := { State.reset with index := 0x0FFD }
    let s' := { State.reset with index := 0x0FFE }
    (Memory.wf s.mem = true ∧ s.index.toNat ≤ 0x0FFD) ∧ 0x0FFD < s'.index.toNat := by decide

theorem witness_SaveRegsStoresTheRegisterBlock :
    let s := { State.reset with index := 0x0FF0 }
    let s' := { State.reset with index := 0x0FF1 }
    (Memory.wf s.mem = true ∧ s.index.toNat + (0xF : Nibble).toNat ≤ 0x0FFF) ∧
    0x0FFF < s'.index.toNat + (0xF : Nibble).toNat := by decide

theorem witness_LoadRegsLoadsTheRegisterBlock :
    let s := { State.reset with index := 0x0FFF }
    let s' := { State.reset with index := 0x1000 }
    s.index.toNat + (0x0 : Nibble).toNat ≤ 0x0FFF ∧ 0x0FFF < s'.index.toNat + (0x0 : Nibble).toNat := by decide

/-- Three registers at the end of memory, cleared between the save and the load. -/
theorem witness_SavedRegistersComeBackWhenLoaded :
    let s := { regs [(0x0, 0x01), (0x1, 0x02), (0x2, 0x03)] with index := 0x0FFD }
    Memory.wf s.mem = true ∧ s.cfg.regSaveLegacy = false ∧ s.index.toNat + (0x2 : Nibble).toNat ≤ 0x0FFF ∧
    (∃ t u, exec (.saveRegs 0x2) s = .next t ∧
      exec (.loadRegs 0x2) { t with v := Vector.replicate 16 0x00 } = .next u) ∧ (0x2 : Nibble).toNat ≤ (0x2 : Nibble).toNat :=
  ⟨rfl, rfl, by decide, ⟨_, _, rfl, rfl⟩, by decide⟩

/-- `V0`, `V1` hold the word `6A05` and are stored into the last two bytes. -/
theorem witness_StoredBytesAreFetchedByTheNextStep :
    let s := { regs [(0x0, 0x6A), (0x1, 0x05)] with index := 0x0FFE }
    Memory.wf s.mem = true ∧ 1 ≤ (0x1 : Nibble).toNat ∧ s.index.toNat + (0x1 : Nibble).toNat ≤ 0x0FFF ∧
    (∃ t, exec (.saveRegs 0x1) s = .next t ∧
      let u := stepping { t with pc := s.index }
      u.mem = t.mem ∧ u.pc = s.index ∧ u.Ready ∧ u.nextEvent = .step 0x0000 0x00) ∧
    decode (BitVec.ofNat 16 ((s.reg 0).toNat * 256 + (s.reg 1).toNat)) = .known (.loadImm 0xA 0x05) :=
  ⟨rfl, by decide, by decide, ⟨_, rfl, rfl, rfl, ⟨rfl, rfl, by decide⟩, rfl⟩, by decide⟩

/-- Two histories of stores that leave the same bytes. -/
theorem witness_MemoriesThatReadAlikeAreEqual :
    let m := Memory.write (Memory.write [] 0x0300 0x12) 0x0FFF 0x34
    let m' := Memory.write (Memory.write (Memory.write [] 0x0FFF 0x34) 0x0300 0x99) 0x0300 0x12
    Memory.wf m = true ∧ Memory.wf m' = true ∧ ∀ a, a < 4096 → Memory.read m a = Memory.read m' a :=
  ⟨by decide, by decide, fun _ _ => rfl⟩

/-! ### Display -/

/-- No row with `I` at the end of memory, the last byte as a sprite, a sprite one byte too long. -/
theorem witness_DrawXorsTheSpriteAndReportsCollision :
    let s := { State.reset with index := 0x0FFF }
    (0x0 : Nibble).toNat = 0 ∧ s.index.toNat + ((0x1 : Nibble).toNat - 1) ≤ 0x0FFF ∧
    (0 < (0x2 : Nibble).toNat ∧ 0x0FFF < s.index.toNat + ((0x2 : Nibble).toNat - 1)) := by decide

/-- Program P4 of spec/95_test_vectors.md: the display is clear before the first draw. -/
theorem witness_DrawingTwiceRestoresTheDisplay :
    let s := block 0x020C [0xC3, 0x81] [(0x0, 0x3E), (0x1, 0x1F)]
    (0x0 : Nibble) ≠ 0xF ∧ (0x1 : Nibble) ≠ 0xF ∧ s.index.toNat + ((0x2 : Nibble).toNat - 1) ≤ 0x0FFF ∧
    (∃ t u, exec (.draw 0x0 0x1 0x2) s = .next t ∧ exec (.draw 0x0 0x1 0x2) t = .next u) ∧
    ∀ row col, Frame.pixel s.fb row col = false :=
  ⟨by decide, by decide, by decide, ⟨_, _, rfl, rfl⟩, Frame.pixel_cleared⟩

/-! ### Keypad -/

theorem witness_KeySkipsTestTheNumberedKey :
    let s := regs [(0x0, 0x0F), (0x1, 0x10)]
    (s.reg 0x0).toNat ≤ 0x0F ∧ 0x0F < (s.reg 0x1).toNat := by decide

/-! ### Frames and whole-machine statements -/

theorem witness_OnlyStoresChangeMemory :
    (∃ t, exec (.loadRegs 0x2) State.reset = .next t) ∧
    ∀ x, Instr.loadRegs 0x2 ≠ .bcd x ∧ Instr.loadRegs 0x2 ≠ .saveRegs x :=
  ⟨⟨_, rfl⟩, by simp⟩

/-- An instruction that is none of the writers, and one that is a writer of one piece of state only. -/
theorem witness_StackDisplayTimersAndWaitHaveTheirOwnWriters :
    (∃ t, exec (.jump 0x300) State.reset = .next t) ∧ ∃ t, exec (.setDelay 0x0) State.reset = .next t :=
  ⟨⟨_, rfl⟩, ⟨_, rfl⟩⟩

/-- A store without the legacy option leaves `I`; `FX29` with the last glyph of the highest font base writes it. -/
theorem witness_IndexHasItsOwnWritersAndStaysBelow4096 :
    (∃ t, exec (.saveRegs 0x2) State.reset = .next t) ∧ State.reset.cfg.regSaveLegacy = false ∧
    let s := { regs [(0x0, 0x0F)] with cfg := { fontStart := 0x0FB0 } }
    s.cfg.fontStart.toNat ≤ 0x0FB0 ∧ ∃ t, exec (.fontAddr 0x0) s = .next t ∧ t.index ≠ s.index :=
  ⟨⟨_, rfl⟩, rfl, by decide, _, rfl, by decide⟩

theorem witness_OnlyResetChangesTheConfiguration :
    (∃ t, step (chosen State.reset .tick) = .next t) ∧ ∀ c, (chosen State.reset .tick).nextEvent ≠ .reset c :=
  ⟨⟨_, rfl⟩, fun _ h => by cases h⟩

/-- The end of program P4: `120A` at 0x20A. -/
theorem witness_EndOfRunRepeatsForEver :
    let s := stepping { State.reset with pc := 0x020A, mem := [(0x020A, 0x12), (0x020B, 0x0A)] }
    s.atEnd = true ∧ s.phase ≠ .loadFailed ∧ s.nextEvent = .step 0x0000 0x00 :=
  ⟨by decide, by decide, rfl⟩

/-- The reset state, and a waiting core with a pushed entry: both have the invariants, and a step. -/
theorem witness_EveryStepKeepsTheInvariants :
    (stepping { waiting with index := 0x0FFF, sp := 1, stack := (Vector.replicate 32 0).set 0 0x1000 }).Inv ∧
    (∃ t, step (stepping { waiting with index := 0x0FFF, sp := 1, stack := (Vector.replicate 32 0).set 0 0x1000 }) =
      .next t) :=
  ⟨⟨by decide, by decide, by decide, by decide, by decide, by decide, fun _ => rfl, fun h => absurd h (by decide),
    fun h => absurd rfl h⟩, ⟨_, rfl⟩⟩

end Sys2Proof.Tests
end

section
/-!
SUPPORT and PROOFS for spec/00_scope.md. First the frame of everything a `Step` runs: what the host owns is
written by no instruction. Then the obligations about the two strobes of one clock cycle (R8), the ownership of
the configuration (R5) and its check at `Reset`.
-/

namespace Sys2Proof.Machine

/-! ## The host's side of the state -/

/-- What belongs to the host and not to the running program: configuration and parameter (R5, R6), the life
cycle (R41), the inputs of this `Step` (R23, R24) and the list of events (R7). -/
structure HostSide where
  cfg : Config
  param : Params
  phase : Phase
  keys : Word
  rnd : Byte
  events : List Event
  drawn : Nat

/-- The host's side of a state. -/
def State.hostSide (s : State) : HostSide :=
  ⟨s.cfg, s.param, s.phase, s.keys, s.rnd, s.events, s.drawn⟩

/-- Equal host's sides agree field by field. -/
theorem State.hostSide_eq_iff {s t : State} :
    t.hostSide = s.hostSide ↔
      t.cfg = s.cfg ∧ t.param = s.param ∧ t.phase = s.phase ∧ t.keys = s.keys ∧ t.rnd = s.rnd ∧
        t.events = s.events ∧ t.drawn = s.drawn := by
  simp [State.hostSide]

/-! ### State operations leave the host's side alone -/

@[simp] theorem State.hostSide_setReg (s : State) (r : Nibble) (b : Byte) :
    (s.setReg r b).hostSide = s.hostSide := rfl
@[simp] theorem State.hostSide_jumpTo (s : State) (a : Word) : (s.jumpTo a).hostSide = s.hostSide := rfl
@[simp] theorem State.hostSide_advance (s : State) : s.advance.hostSide = s.hostSide := rfl
@[simp] theorem State.hostSide_skipIf (s : State) (c : Bool) : (s.skipIf c).hostSide = s.hostSide := rfl
@[simp] theorem State.hostSide_raise (s : State) (c : Cause) (w : Word) : (s.raise c w).hostSide = s.hostSide := rfl
@[simp] theorem State.hostSide_setFlag (s : State) (f : Bool) : (s.setFlag f).hostSide = s.hostSide := rfl
@[simp] theorem State.hostSide_setResult (s : State) (x : Nibble) (b : Byte) (f : Bool) :
    (s.setResult x b f).hostSide = s.hostSide := rfl
@[simp] theorem State.hostSide_setIndex (s : State) (w : Word) : (s.setIndex w).hostSide = s.hostSide := rfl
@[simp] theorem State.hostSide_storeBlock (s : State) (bs : List Byte) :
    (s.storeBlock bs).hostSide = s.hostSide := rfl

@[simp] theorem State.hostSide_afterBlock (s : State) (k : Nat) : (s.afterBlock k).hostSide = s.hostSide := by
  simp [State.hostSide_eq_iff]

@[simp] theorem State.hostSide_setRegsFrom (s : State) (k : Nat) (bs : List Byte) :
    (s.setRegsFrom k bs).hostSide = s.hostSide := by
  simp [State.hostSide_eq_iff]

theorem State.hostSide_push {s t : State} {a : Word} (h : s.push a = some t) : t.hostSide = s.hostSide := by
  obtain ⟨_, rfl⟩ := State.push_eq_some h
  rfl

theorem State.hostSide_pop {s t : State} {a : Word} (h : s.pop = some (a, t)) : t.hostSide = s.hostSide := by
  obtain ⟨_, _, _, rfl⟩ := State.pop_eq_some h
  rfl

/-- A guarded effect leaves the host's side alone if the effect does: a raised fault does so anyway. -/
theorem State.hostSide_guard {s t : State} (ok : Bool) (c : Cause) (w : Word) (h : t.hostSide = s.hostSide) :
    (s.guard ok c w t).hostSide = s.hostSide := by
  cases ok with
  | true => exact h
  | false => rfl

theorem State.hostSide_guardBlock {s t : State} (count : Nat) (h : t.hostSide = s.hostSide) :
    (s.guardBlock count t).hostSide = s.hostSide :=
  State.hostSide_guard _ _ _ h

@[simp] theorem State.hostSide_pollKey (s : State) : s.pollKey.hostSide = s.hostSide := by
  unfold State.pollKey
  split <;> rfl

/-! ### A `Step` leaves the host's side alone -/

theorem execRet_hostSide {s t : State} (h : execRet s = .next t) : t.hostSide = s.hostSide := by
  unfold execRet at h
  split at h
  · cases h
    exact (State.hostSide_jumpTo _ _).trans (State.hostSide_pop ‹_›)
  · cases h
    rfl

theorem execCall_hostSide {nnn : Addr} {s t : State} (h : execCall nnn s = .next t) :
    t.hostSide = s.hostSide := by
  unfold execCall at h
  split at h
  · cases h
    exact (State.hostSide_jumpTo _ _).trans (State.hostSide_push ‹_›)
  · cases h
    rfl

theorem execAddIndex_hostSide {x : Nibble} {s t : State} (h : execAddIndex x s = .next t) :
    t.hostSide = s.hostSide := by
  cases h
  split <;> rfl

/-- No instruction writes the host's side of the state. The stack instructions and the guarded ones need their
operation's rule; every other instruction is a chain of unconditional operations. -/
theorem exec_hostSide {i : Instr} {s t : State} (h : exec i s = .next t) : t.hostSide = s.hostSide := by
  cases i with
  | ret => exact execRet_hostSide h
  | call nnn => exact execCall_hostSide h
  | addIndex x => exact execAddIndex_hostSide h
  | skipKey x => cases h; exact State.hostSide_guard _ _ _ (by simp)
  | skipNotKey x => cases h; exact State.hostSide_guard _ _ _ (by simp)
  | fontAddr x => cases h; exact State.hostSide_guard _ _ _ (by simp)
  | draw x y n => cases h; exact State.hostSide_guardBlock _ rfl
  | bcd x => cases h; exact State.hostSide_guardBlock _ (by simp)
  | saveRegs x => cases h; exact State.hostSide_guardBlock _ (by simp)
  | loadRegs x => cases h; exact State.hostSide_guardBlock _ (by simp)
  | _ => cases h; rfl

/-- The cycle, on each of its branches, leaves the host's side alone. -/
theorem cycle_hostSide {s t : State} (h : s.cycle = .next t) : t.hostSide = s.hostSide := by
  obtain ⟨_, hc⟩ | ⟨_, _, hc⟩ | ⟨_, _, _, hc⟩ | ⟨_, _, _, _, hc⟩ | ⟨_, _, _, i, _, hc⟩ := cycle_cases s <;>
    rw [hc] at h
  · cases h; rfl
  · cases h; exact s.hostSide_pollKey
  · cases h; rfl
  · cases h; rfl
  · exact exec_hostSide h

/-! ### Loads leave configuration and parameter alone -/

@[simp] theorem State.failLoad_cfg (s : State) : s.failLoad.cfg = s.cfg := rfl
@[simp] theorem State.failLoad_param (s : State) : s.failLoad.param = s.param := rfl
@[simp] theorem State.loadFont_cfg (s : State) (font : Vector Byte 80) : (s.loadFont font).cfg = s.cfg := rfl
@[simp] theorem State.loadFont_param (s : State) (font : Vector Byte 80) : (s.loadFont font).param = s.param := rfl

@[simp] theorem State.loadProgram_cfg (s : State) (image : List Byte) : (s.loadProgram image).cfg = s.cfg := by
  unfold State.loadProgram
  split <;> rfl

@[simp] theorem State.loadProgram_param (s : State) (image : List Byte) :
    (s.loadProgram image).param = s.param := by
  unfold State.loadProgram
  split <;> rfl

/-! ## An answered `Step` -/

/-- An answered `Step` is the cycle's answer (a failed load would have stuck the machine, R162). -/
theorem cycle_of_answered_step {s t : State} {keys : Word} {rnd : Byte} (he : s.nextEvent = .step keys rnd)
    (h : step s = .next t) : (s.started keys rnd).cycle = .next t := by
  rw [step_eq he] at h
  exact (unlessFailed_eq_next h).2

/-- What an answered `Step` leaves on the host's side: its inputs are presented and its event is taken. -/
theorem answered_step_hostSide {s t : State} {keys : Word} {rnd : Byte} (he : s.nextEvent = .step keys rnd)
    (h : step s = .next t) : t.hostSide = (s.started keys rnd).hostSide :=
  cycle_hostSide (cycle_of_answered_step he h)

/-! ## Well-formed configurations (R5) -/

/-- `font_start + 80 <= 4096`, as a bound on `font_start`. -/
theorem wellFormed_iff_fontStart_le {c : Config} : c.wellFormed = true ↔ c.fontStart.toNat ≤ 0x0FB0 := by
  simp only [Config.wellFormed, decide_eq_true_eq, fontLen, memSize]
  omega

theorem State.hostReset_of_not_wellFormed (s : State) {c : Config} (h : ¬ c.wellFormed = true) :
    s.hostReset c = .refused .illFormedConfig :=
  if_neg h

/-! ## The obligations -/

/-- Settles O16: the answered `Step` leaves a machine that is running and has the `Tick` next on its list,
whatever the instruction did, so the second step is the `Tick`. -/
theorem strobesTogetherActAsStepThenTick : Obligations.StrobesTogetherActAsStepThenTick := by
  unfold Obligations.StrobesTogetherActAsStepThenTick
  intro s t keys rnd es hevents hstep
  obtain ⟨_, _, hphase, _, _, hrest, _⟩ :=
    State.hostSide_eq_iff.mp (answered_step_hostSide (nextEvent_cons hevents) hstep)
  have hlist : t.events = .tick :: es := by simp [hrest, State.started, hevents, Event.strobesTogether]
  have htick : step t = .next t.dropEvent.tick :=
    step_of_tick (nextEvent_cons hlist) (by simp [hphase, State.started])
  refine ⟨t.dropEvent.tick, ?_, by simp, by simp, ?_⟩
  · rw [core_run_succ 1 hstep, core_run_succ 0 htick, core_run_zero]
  · simp [State.tick, State.dropEvent, hlist]

/-- Settles O57: `Reset` keeps the parameter, a load and a `Tick` keep both, and a `Step` keeps the host's
side of the state. -/
theorem onlyResetChangesTheConfiguration : Obligations.OnlyResetChangesTheConfiguration := by
  unfold Obligations.OnlyResetChangesTheConfiguration
  intro s t hstep
  obtain ⟨c, he, _, rfl⟩ | ⟨image, _, _, rfl⟩ | ⟨font, _, _, rfl⟩ | ⟨_, _, rfl⟩ | ⟨keys, rnd, he, _⟩ |
    ⟨_, _, rfl⟩ := step_eq_next hstep
  · exact ⟨rfl, fun hne => absurd he (hne c)⟩
  · simp
  · simp
  · simp
  · obtain ⟨hcfg, hparam, _⟩ := State.hostSide_eq_iff.mp (answered_step_hostSide he hstep)
    exact ⟨hparam, fun _ => hcfg⟩
  · simp

/-- Settles O19: above 0x0FB0 the last glyph would leave memory, so the check of `Reset` fails. -/
theorem resetRefusesAnIllFormedConfiguration : Obligations.ResetRefusesAnIllFormedConfiguration := by
  unfold Obligations.ResetRefusesAnIllFormedConfiguration
  intro s c he hstart
  have hill : ¬ c.wellFormed = true := by
    rw [wellFormed_iff_fontStart_le]
    omega
  rw [step_of_reset he, State.hostReset_of_not_wellFormed _ hill]

end Sys2Proof.Machine
end

section
/-!
SUPPORT and PROOFS for spec/10_state.md. First the footprint of every instruction: which pieces of state it may
write. Then, from it, the obligations about who writes VF (R11), `I` (R12) and the stack, the display, the timers
and the wait state (R14 to R21). Then the values written, as far as the invariants bound them, and the obligations
about the invariants (R26) and the values after reset (R27). Last, that canonical memories are equal data (R20).
-/

namespace Sys2Proof.Machine

/-! ## The footprint of an instruction -/

/-- `s` with the pieces of state that a completed `i` may write taken from `t`. Where `i` transfers no control,
`pc` is two further on (R66). -/
def footprint (i : Instr) (s t : State) : State :=
  match i with
  | .clearDisplay => { s with pc := s.pc + 2, fb := t.fb }
  | .ret => { s with pc := t.pc, sp := t.sp }
  | .call _ => { s with pc := t.pc, stack := t.stack, sp := t.sp }
  | .jump _ | .jumpOffset _ | .skipEqImm _ _ | .skipNeImm _ _ | .skipEqReg _ _ | .skipNeReg _ _ | .skipKey _
  | .skipNotKey _ => { s with pc := t.pc }
  | .loadImm _ _ | .addImm _ _ | .random _ _ | .move _ _ | .orReg _ _ | .andReg _ _ | .xorReg _ _ | .addReg _ _
  | .sub _ _ | .shiftRight _ _ | .subN _ _ | .shiftLeft _ _ | .getDelay _ => { s with pc := s.pc + 2, v := t.v }
  | .draw _ _ _ => { s with pc := s.pc + 2, v := t.v, fb := t.fb }
  | .waitKey _ => { s with pc := s.pc + 2, awaitingKey := t.awaitingKey, keyReg := t.keyReg }
  | .setDelay _ => { s with pc := s.pc + 2, dt := t.dt }
  | .setSound _ => { s with pc := s.pc + 2, st := t.st }
  | .loadIndex _ | .fontAddr _ => { s with pc := s.pc + 2, index := t.index }
  | .addIndex _ => { s with pc := s.pc + 2, index := t.index, v := if s.cfg.indexAddCarry then t.v else s.v }
  | .bcd _ => { s with pc := s.pc + 2, mem := t.mem }
  | .saveRegs _ =>
    { s with pc := s.pc + 2, mem := t.mem, index := if s.cfg.regSaveLegacy then t.index else s.index }
  | .loadRegs _ => { s with pc := s.pc + 2, v := t.v, index := if s.cfg.regSaveLegacy then t.index else s.index }

/-- `t` is `s` with a fault raised, or differs from `s` within the footprint of `i` only. -/
def Confined (i : Instr) (s t : State) : Prop :=
  (∃ c w, t = s.raise c w) ∨ t = footprint i s t

/-- What is shown of the effect and of the fault holds of the guarded effect. -/
theorem State.guard_induction {P : State → Prop} {s t : State} {ok : Bool} {c : Cause} {w : Word} (ht : P t)
    (hr : P (s.raise c w)) : P (s.guard ok c w t) := by
  cases ok with
  | true => exact ht
  | false => exact hr

theorem Confined.guard {i : Instr} {s t : State} {ok : Bool} {c : Cause} {w : Word} (h : t = footprint i s t) :
    Confined i s (s.guard ok c w t) :=
  State.guard_induction (.inr h) (.inl ⟨c, w, rfl⟩)

/-- Loading registers changes the register array only. -/
theorem State.setRegsFrom_eq (s : State) (k : Nat) (bs : List Byte) :
    s.setRegsFrom k bs = { s with v := (s.setRegsFrom k bs).v } := by
  induction bs generalizing s k with
  | nil => rfl
  | cons b bs ih => exact ih _ _

/-- The end of a block transfer writes `I` only. -/
theorem State.afterBlock_eq (s : State) (k : Nat) :
    s.afterBlock k = s.setIndex (if s.cfg.regSaveLegacy then s.indexPlus k else s.index) := by
  unfold State.afterBlock
  split <;> rfl

/-- Every instruction, wherever it answers, stays within its footprint or raises a fault. -/
theorem exec_confined {i : Instr} {s t : State} (h : exec i s = .next t) : Confined i s t := by
  cases i with
  | ret =>
    change execRet s = .next t at h
    unfold execRet at h
    split at h
    · obtain ⟨_, _, _, rfl⟩ := State.pop_eq_some ‹_›
      cases h
      exact .inr rfl
    · cases h
      exact .inl ⟨_, _, rfl⟩
  | call nnn =>
    change execCall nnn s = .next t at h
    unfold execCall at h
    split at h
    · obtain ⟨_, rfl⟩ := State.push_eq_some ‹_›
      cases h
      exact .inr rfl
    · cases h
      exact .inl ⟨_, _, rfl⟩
  | addIndex x =>
    cases h
    refine .inr ?_
    simp only [footprint]
    split <;> rfl
  | skipKey | skipNotKey | fontAddr | draw | bcd => cases h; exact .guard rfl
  | saveRegs x =>
    cases h
    refine .guard ?_
    rw [State.afterBlock_eq]
    cases hleg : s.cfg.regSaveLegacy <;> simp only [footprint, State.storeBlock_cfg, hleg] <;> rfl
  | loadRegs x =>
    cases h
    refine .guard ?_
    rw [State.afterBlock_eq, State.setRegsFrom_eq]
    cases hleg : s.cfg.regSaveLegacy <;> simp only [footprint, hleg] <;> rfl
  | _ => cases h; exact .inr rfl

/-- A piece of state that a fault leaves alone and that lies outside the footprint keeps its value. -/
theorem Confined.keeps {α : Type} (f : State → α) {i : Instr} {s t : State} (h : Confined i s t)
    (hraise : ∀ c w, f (s.raise c w) = f s) (hframe : f (footprint i s t) = f s) : f t = f s := by
  obtain ⟨c, w, rfl⟩ | ht := h
  · exact hraise c w
  · exact (congrArg f ht).trans hframe

/-! ## Own writers (R11, R12, R14 to R16, R19, R21) -/

/-- An instruction with no register in its footprint leaves all sixteen. -/
theorem reg_eq_of_v_outside {i : Instr} {s t : State} (h : exec i s = .next t)
    (hframe : (footprint i s t).v = s.v) (r : Nibble) : t.reg r = s.reg r :=
  State.reg_congr ((exec_confined h).keeps State.v (fun _ _ => rfl) hframe) r

/-- An effect that writes register `x` alone changes no other register. -/
theorem dest_eq_of_reg_ne {s : State} {x r : Nibble} {b : Byte} (hne : (s.setReg x b).advance.reg r ≠ s.reg r) :
    r = x := by
  by_contra hrx
  simp [hrx] at hne

/-- `FX65` writes no register past `V[x]` (R100). -/
theorem loadRegs_reg_of_lt {s t : State} {x r : Nibble} (h : exec (.loadRegs x) s = .next t)
    (hlt : x.toNat < r.toNat) : t.reg r = s.reg r := by
  cases h
  refine State.guard_induction (P := fun u => u.reg r = s.reg r) ?_ rfl
  have hr := r.isLt
  have hend : (s.loadBlock (x.toNat + 1))[r.toNat]? = none := by
    rw [State.loadBlock, Memory.readBlock_getElem?, if_neg (by omega)]
  rw [State.reg_advance, State.reg_afterBlock,
    State.reg_setRegsFrom _ _ _ (by rw [State.loadBlock, Memory.readBlock_length]; omega)]
  simp [hend]

/-- Settles O38: outside its footprint no instruction writes a register; the ones that write one register write
their destination, and `FX65` writes none past `V[x]`. -/
theorem onlyFlagSettersAndDestinationsChangeVF : Obligations.OnlyFlagSettersAndDestinationsChangeVF := by
  unfold Obligations.OnlyFlagSettersAndDestinationsChangeVF
  intro i s t h hne
  cases i with
  | addReg | sub | subN | shiftRight | shiftLeft | draw => simp
  | loadImm | addImm | random | move | orReg | andReg | xorReg | getDelay =>
    cases h
    obtain rfl := dest_eq_of_reg_ne hne
    simp
  | addIndex x =>
    have hcarry : s.cfg.indexAddCarry = true := by
      by_contra hoff
      exact hne (reg_eq_of_v_outside h (if_neg hoff) 0xF)
    simp [hcarry]
  | loadRegs x =>
    have hx : x = 0xF := by
      by_contra hx
      have hne15 : x.toNat ≠ 15 := fun e => hx (BitVec.eq_of_toNat_eq e)
      have hlt : x.toNat < 15 := by omega
      exact hne (loadRegs_reg_of_lt h hlt)
    simp [hx]
  | _ => exact absurd (reg_eq_of_v_outside h rfl 0xF) hne

theorem footprint_stack {i : Instr} {s t : State} (h : ∀ nnn, i ≠ .call nnn) :
    (footprint i s t).stack = s.stack := by
  cases i with
  | call nnn => exact absurd rfl (h nnn)
  | _ => rfl

theorem footprint_sp {i : Instr} {s t : State} (hcall : ∀ nnn, i ≠ .call nnn) (hret : i ≠ .ret) :
    (footprint i s t).sp = s.sp := by
  cases i with
  | call nnn => exact absurd rfl (hcall nnn)
  | ret => exact absurd rfl hret
  | _ => rfl

theorem footprint_fb {i : Instr} {s t : State} (hclear : i ≠ .clearDisplay) (hdraw : ∀ x y n, i ≠ .draw x y n) :
    (footprint i s t).fb = s.fb := by
  cases i with
  | clearDisplay => exact absurd rfl hclear
  | draw x y n => exact absurd rfl (hdraw x y n)
  | _ => rfl

theorem footprint_dt {i : Instr} {s t : State} (h : ∀ x, i ≠ .setDelay x) : (footprint i s t).dt = s.dt := by
  cases i with
  | setDelay x => exact absurd rfl (h x)
  | _ => rfl

theorem footprint_st {i : Instr} {s t : State} (h : ∀ x, i ≠ .setSound x) : (footprint i s t).st = s.st := by
  cases i with
  | setSound x => exact absurd rfl (h x)
  | _ => rfl

theorem footprint_wait {i : Instr} {s t : State} (h : ∀ x, i ≠ .waitKey x) :
    (footprint i s t).awaitingKey = s.awaitingKey ∧ (footprint i s t).keyReg = s.keyReg := by
  cases i with
  | waitKey x => exact absurd rfl (h x)
  | _ => exact ⟨rfl, rfl⟩

/-- Settles O55: a piece of state outside the footprint is kept, and a fault writes none of them. -/
theorem stackDisplayTimersAndWaitHaveTheirOwnWriters :
    Obligations.StackDisplayTimersAndWaitHaveTheirOwnWriters := by
  unfold Obligations.StackDisplayTimersAndWaitHaveTheirOwnWriters
  intro i s t h
  have hc := exec_confined h
  refine ⟨fun hi => ⟨?_, fun hret => ?_⟩, fun hclear hdraw => ?_, fun hi => ?_, fun hi => ?_,
    fun hi => ⟨?_, ?_⟩⟩
  · exact hc.keeps State.stack (fun _ _ => rfl) (footprint_stack hi)
  · exact hc.keeps State.sp (fun _ _ => rfl) (footprint_sp hi hret)
  · exact hc.keeps State.fb (fun _ _ => rfl) (footprint_fb hclear hdraw)
  · exact hc.keeps State.dt (fun _ _ => rfl) (footprint_dt hi)
  · exact hc.keeps State.st (fun _ _ => rfl) (footprint_st hi)
  · exact hc.keeps State.awaitingKey (fun _ _ => rfl) (footprint_wait hi).1
  · exact hc.keeps State.keyReg (fun _ _ => rfl) (footprint_wait hi).2

/-! ### `I` -/

theorem footprint_index {i : Instr} {s t : State} (hload : ∀ nnn, i ≠ .loadIndex nnn)
    (harith : ∀ x, i ≠ .addIndex x ∧ i ≠ .fontAddr x)
    (hblock : s.cfg.regSaveLegacy = true → ∀ x, i ≠ .saveRegs x ∧ i ≠ .loadRegs x) :
    (footprint i s t).index = s.index := by
  cases i with
  | loadIndex nnn => exact absurd rfl (hload nnn)
  | addIndex x => exact absurd rfl (harith x).1
  | fontAddr x => exact absurd rfl (harith x).2
  | saveRegs x => exact if_neg fun hleg => (hblock hleg x).1 rfl
  | loadRegs x => exact if_neg fun hleg => (hblock hleg x).2 rfl
  | _ => rfl

theorem State.indexPlus_le (s : State) (k : Nat) : (s.indexPlus k).toNat ≤ 0x0FFF := by
  rw [State.indexPlus_toNat]
  omega

theorem State.afterBlock_index_eq_or_le (s : State) (k : Nat) :
    (s.afterBlock k).index = s.index ∨ (s.afterBlock k).index.toNat ≤ 0x0FFF := by
  rw [State.afterBlock_index]
  split
  · exact .inr (s.indexPlus_le k)
  · exact .inl rfl

/-- With a well-formed configuration every glyph lies inside memory (R5, R97). -/
theorem State.glyphAddr_le {s : State} {d : Byte} (hfont : s.cfg.fontStart.toNat ≤ 0x0FB0)
    (hd : isDigit d = true) : (s.glyphAddr d).toNat ≤ 0x0FFF := by
  have hd' : d.toNat ≤ 0x0F := of_decide_eq_true hd
  simp only [State.glyphAddr, BitVec.toNat_add, BitVec.toNat_mul, byteWord_toNat, show (5 : Word).toNat = 5 from rfl]
  simp (disch := omega) only [Nat.mod_eq_of_lt]
  omega

/-- Everything `I` can be after an instruction: as it was, or a value below 4096. -/
theorem exec_index_eq_or_le {i : Instr} {s t : State} (h : exec i s = .next t)
    (hfont : s.cfg.fontStart.toNat ≤ 0x0FB0) : t.index = s.index ∨ t.index.toNat ≤ 0x0FFF := by
  have hc := exec_confined h
  cases i with
  | loadIndex nnn =>
    cases h
    have := nnn.isLt
    refine .inr ?_
    simp only [State.advance_index, State.setIndex_index, addrWord_toNat]
    omega
  | addIndex x =>
    cases h
    refine .inr ?_
    split <;> exact s.indexPlus_le _
  | fontAddr x =>
    cases h
    obtain ⟨hd, heq⟩ | ⟨_, heq⟩ := State.guard_cases s (isDigit (s.reg x)) .digitRange (byteWord (s.reg x))
      (s.setIndex (s.glyphAddr (s.reg x))).advance <;> rw [heq]
    · exact .inr (State.glyphAddr_le hfont hd)
    · exact .inl rfl
  | saveRegs x =>
    cases h
    exact State.guard_induction (P := fun u => u.index = s.index ∨ u.index.toNat ≤ 0x0FFF)
      (State.afterBlock_index_eq_or_le _ _) (.inl rfl)
  | loadRegs x =>
    cases h
    refine State.guard_induction (P := fun u => u.index = s.index ∨ u.index.toNat ≤ 0x0FFF) ?_ (.inl rfl)
    simpa using State.afterBlock_index_eq_or_le (s.setRegsFrom 0 (s.loadBlock (x.toNat + 1))) (x.toNat + 1)
  | _ => exact .inl (hc.keeps State.index (fun _ _ => rfl) rfl)

/-- Settles O56: outside its footprint no instruction writes `I`, and its writers write values below 4096. -/
theorem indexHasItsOwnWritersAndStaysBelow4096 : Obligations.IndexHasItsOwnWritersAndStaysBelow4096 := by
  unfold Obligations.IndexHasItsOwnWritersAndStaysBelow4096
  intro i s t h
  refine ⟨fun hload harith hblock => ?_, fun hfont hne => ?_⟩
  · exact (exec_confined h).keeps State.index (fun _ _ => rfl) (footprint_index hload harith hblock)
  · exact (exec_index_eq_or_le h hfont).resolve_left hne

/-! ## What the values written keep of the invariants (R26) -/

/-! ### `pc` -/

theorem State.npc_toNat {s : State} (h : s.pc.toNat ≤ 0x0FFE) : s.npc.toNat = s.pc.toNat + 2 := by
  simp only [State.npc, BitVec.toNat_add, show (2 : Word).toNat = 2 from rfl]
  omega

theorem State.skipIf_pc_le {s : State} (h : s.pc.toNat ≤ 0x0FFE) (c : Bool) : (s.skipIf c).pc.toNat ≤ 0x10FE := by
  have hnpc := State.npc_toNat h
  rw [State.skipIf_pc]
  split
  · simp only [BitVec.toNat_add, hnpc, show (2 : Word).toNat = 2 from rfl]
    omega
  · omega

/-- A guarded skip moves `pc` as the skip does, or not at all. -/
theorem State.guard_skipIf_pc_le {s : State} (h : s.pc.toNat ≤ 0x0FFE) (ok : Bool) (c : Cause) (w : Word)
    (b : Bool) : (s.guard ok c w (s.skipIf b)).pc.toNat ≤ 0x10FE := by
  refine State.guard_induction (P := fun u => u.pc.toNat ≤ 0x10FE) (State.skipIf_pc_le h b) ?_
  rw [State.raise_pc]
  omega

theorem addrWord_le (nnn : Addr) : (addrWord nnn).toNat ≤ 0x0FFF := by
  have := nnn.isLt
  rw [addrWord_toNat]
  omega

/-- The largest target of `BNNN` is 0x0FFF + 0xFF (R77). -/
theorem jumpOffset_target_le (nnn : Addr) (b : Byte) : (addrWord nnn + byteWord b).toNat ≤ 0x10FE := by
  have := addrWord_le nnn
  have := b.isLt
  rw [BitVec.toNat_add, byteWord_toNat]
  omega

/-- A return goes to an entry of the stack, or faults where it is. -/
theorem execRet_pc {s t : State} (h : execRet s = .next t) : t.pc = s.pc ∨ ∃ k : Fin 32, t.pc = s.stack[k] := by
  unfold execRet at h
  split at h
  · obtain ⟨k, _, rfl, _⟩ := State.pop_eq_some ‹_›
    cases h
    exact .inr ⟨k, rfl⟩
  · cases h
    exact .inl rfl

/-- A call goes to its address, or faults where it is. -/
theorem execCall_pc {nnn : Addr} {s t : State} (h : execCall nnn s = .next t) :
    t.pc = s.pc ∨ t.pc = addrWord nnn := by
  unfold execCall at h
  split at h <;> cases h
  · exact .inr rfl
  · exact .inl rfl

/-- An instruction that transfers no control goes on to the next one, or faults where it is. -/
theorem Confined.pc {i : Instr} {s t : State} (h : Confined i s t) (hnext : (footprint i s t).pc = s.npc) :
    t.pc = s.pc ∨ t.pc = s.npc := by
  obtain ⟨c, w, rfl⟩ | ht := h
  · exact .inl rfl
  · exact .inr ((congrArg State.pc ht).trans hnext)

/-- An instruction fetched inside memory leaves `pc` at most 0x10FE (R26 (c)). -/
theorem exec_pc_le {i : Instr} {s t : State} (h : exec i s = .next t) (hpc : s.pc.toNat ≤ 0x0FFE)
    (hstack : ∀ k : Fin 32, s.stack[k].toNat ≤ 0x1000) : t.pc.toNat ≤ 0x10FE := by
  have hc := exec_confined h
  cases i with
  | ret =>
    obtain heq | ⟨k, heq⟩ := execRet_pc h <;> rw [heq]
    · omega
    · exact (hstack k).trans (by decide)
  | call nnn =>
    obtain heq | heq := execCall_pc h <;> rw [heq]
    · omega
    · exact (addrWord_le nnn).trans (by decide)
  | jump nnn => cases h; exact (addrWord_le nnn).trans (by decide)
  | jumpOffset nnn => cases h; exact jumpOffset_target_le nnn _
  | skipEqImm | skipNeImm | skipEqReg | skipNeReg => cases h; exact State.skipIf_pc_le hpc _
  | skipKey | skipNotKey => cases h; exact State.guard_skipIf_pc_le hpc _ _ _ _
  | _ =>
    have hnpc := State.npc_toNat hpc
    obtain heq | heq := hc.pc rfl <;> rw [heq] <;> omega

/-! ### The stack -/

/-- A call changes no entry of the stack but to its own return address. -/
theorem execCall_stack {nnn : Addr} {s t : State} (h : execCall nnn s = .next t) (k : Fin 32) :
    t.stack[k] = s.stack[k] ∨ t.stack[k] = s.npc := by
  unfold execCall at h
  split at h
  · obtain ⟨hlt, rfl⟩ := State.push_eq_some ‹_›
    cases h
    by_cases hk : s.sp.val = k.val
    · exact .inr (by simp [hk])
    · exact .inl (by simp [hk])
  · cases h
    exact .inl rfl

/-- Stack entries stay at most 0x1000: a call fetched inside memory returns to at most that address (R14). -/
theorem exec_stack_le {i : Instr} {s t : State} (h : exec i s = .next t) (hpc : s.pc.toNat ≤ 0x0FFE)
    (hstack : ∀ k : Fin 32, s.stack[k].toNat ≤ 0x1000) (k : Fin 32) : t.stack[k].toNat ≤ 0x1000 := by
  have hc := exec_confined h
  cases i with
  | call nnn =>
    obtain heq | heq := execCall_stack h k <;> rw [heq]
    · exact hstack k
    · rw [State.npc_toNat hpc]
      omega
  | _ =>
    rw [hc.keeps State.stack (fun _ _ => rfl) rfl]
    exact hstack k

/-! ### Memory -/

/-- The two stores keep the canonical form of memory, and nothing else writes memory (R26 (e), R30). -/
theorem exec_mem_wf {i : Instr} {s t : State} (h : exec i s = .next t) (hmem : Memory.wf s.mem = true) :
    Memory.wf t.mem = true := by
  have hc := exec_confined h
  have hstore (bs : List Byte) : Memory.wf (s.storeBlock bs).mem = true := Memory.writeBlock_wf _ _ hmem
  cases i with
  | bcd x =>
    cases h
    exact State.guard_induction (P := fun u => Memory.wf u.mem = true) (hstore _) hmem
  | saveRegs x =>
    cases h
    refine State.guard_induction (P := fun u => Memory.wf u.mem = true) ?_ hmem
    rw [State.advance_mem, State.afterBlock_mem]
    exact hstore _
  | _ =>
    rw [hc.keeps State.mem (fun _ _ => rfl) rfl]
    exact hmem

/-! ### The fault record -/

theorem Cause.code_ne_zero (c : Cause) : c.code ≠ 0 := by
  cases c <;> decide

theorem footprint_fault (i : Instr) (s t : State) : (footprint i s t).fault = s.fault := by
  cases i <;> rfl

/-! ## Every event keeps the invariants (R26) -/

/-- Fault entry in a running core that awaits no key keeps the invariants (R142). -/
theorem State.Inv.raise {s : State} (hs : s.Inv) (hrun : s.phase = .running) (hwait : s.awaitingKey = false)
    (c : Cause) (w : Word) : (s.raise c w).Inv :=
  { hs with
    not_both := by simp [hwait]
    record_clear := fun hvalid => by simp at hvalid
    record_set := fun _ => ⟨c.code_ne_zero, rfl⟩
    idle_before_step := fun hphase => absurd hrun hphase }

/-- An instruction executed by a core that is free to fetch keeps the invariants. -/
theorem exec_keeps_inv {i : Instr} {s t : State} (hs : s.Inv) (hrun : s.phase = .running)
    (hvalid : s.fault.valid = false) (hwait : s.awaitingKey = false) (hpc : s.pc.toNat ≤ 0x0FFE)
    (h : exec i s = .next t) : t.Inv := by
  obtain ⟨c, w, rfl⟩ | hdone := exec_confined h
  · exact hs.raise hrun hwait c w
  · have hfault : t.fault = s.fault := (congrArg State.fault hdone).trans (footprint_fault i s t)
    have hclear : ¬ t.fault.valid = true := by simp [hfault, hvalid]
    obtain ⟨hcfg, _, hphase, _⟩ := State.hostSide_eq_iff.mp (exec_hostSide h)
    have hindex := exec_index_eq_or_le h (wellFormed_iff_fontStart_le.mp hs.cfg_wf)
    exact
      { index_le := hindex.elim (fun heq => heq ▸ hs.index_le) id
        pc_le := exec_pc_le h hpc hs.stack_le
        stack_le := exec_stack_le h hpc hs.stack_le
        mem_wf := exec_mem_wf h hs.mem_wf
        not_both := fun hboth => hclear hboth.2
        cfg_wf := hcfg ▸ hs.cfg_wf
        record_clear := fun _ => hfault ▸ hs.record_clear hvalid
        record_set := fun hset => absurd hset hclear
        idle_before_step := fun hne => absurd (hphase.trans hrun) hne }

/-- The polling step writes a register and ends the wait, or changes nothing (R120). -/
theorem State.Inv.pollKey {s : State} (hs : s.Inv) (hrun : s.phase = .running) : s.pollKey.Inv := by
  unfold State.pollKey
  split
  · exact
      { hs with
        not_both := fun hboth => Bool.false_ne_true hboth.1
        idle_before_step := fun hphase => absurd hrun hphase }
  · exact hs

theorem cycle_keeps_inv {s t : State} (hs : s.Inv) (hrun : s.phase = .running) (h : s.cycle = .next t) : t.Inv := by
  obtain ⟨_, hc⟩ | ⟨_, _, hc⟩ | ⟨_, hwait, _, hc⟩ | ⟨_, hwait, _, _, hc⟩ | ⟨hvalid, hwait, hpc, i, _, hc⟩ :=
    cycle_cases s <;> rw [hc] at h
  · cases h
    exact hs
  · cases h
    exact hs.pollKey hrun
  · cases h
    exact hs.raise hrun hwait _ _
  · cases h
    exact hs.raise hrun hwait _ _
  · exact exec_keeps_inv hs hrun hvalid hwait hpc h

theorem State.Inv.dropEvent {s : State} (hs : s.Inv) : s.dropEvent.Inv := { hs with }

/-- From the first `Step` on nothing is asked of the life cycle. -/
theorem State.Inv.present {s : State} (hs : s.Inv) (keys : Word) (rnd : Byte) : (s.present keys rnd).Inv :=
  { hs with idle_before_step := fun hphase => absurd rfl hphase }

theorem State.Inv.tick {s : State} (hs : s.Inv) : s.tick.Inv := { hs with }

theorem State.Inv.load {s : State} (hs : s.Inv) (a : Nat) (bs : List Byte) : (s.load a bs).Inv :=
  { hs with mem_wf := Memory.writeBlock_wf a bs hs.mem_wf }

/-- A failed load happens before the first `Step`, and its unspecified bytes are stored one by one. -/
theorem State.Inv.failLoad {s : State} (hs : s.Inv) (hphase : s.phase = .loading) : s.failLoad.Inv :=
  { hs with
    mem_wf := Memory.writeBlock_wf 0 _ rfl
    idle_before_step := fun _ => hs.idle_before_step (by simp [hphase]) }

theorem State.Inv.loadProgram {s : State} (hs : s.Inv) (hphase : s.phase = .loading) (image : List Byte) :
    (s.loadProgram image).Inv := by
  unfold State.loadProgram
  split
  · exact hs.load _ _
  · exact hs.failLoad hphase

/-- Reset with a well-formed configuration establishes the invariants, on any build. -/
theorem resetWith_inv {cfg : Config} (hcfg : cfg.wellFormed = true) (param : Params) :
    (State.resetWith cfg param).Inv where
  index_le := Nat.zero_le _
  pc_le := show 0x0200 ≤ 0x10FE by decide
  stack_le k := by simp [State.resetWith]
  mem_wf := rfl
  not_both := fun hboth => Bool.false_ne_true hboth.1
  cfg_wf := hcfg
  record_clear _ := rfl
  record_set hvalid := absurd hvalid Bool.false_ne_true
  idle_before_step _ := ⟨rfl, rfl⟩

/-- Settles O59: the default configuration is well formed. -/
theorem invariantsHoldAfterReset : Obligations.InvariantsHoldAfterReset := by
  unfold Obligations.InvariantsHoldAfterReset
  exact resetWith_inv rfl {}

/-- Settles O60: event by event; a `Step` keeps the invariants on each branch of its cycle. -/
theorem everyStepKeepsTheInvariants : Obligations.EveryStepKeepsTheInvariants := by
  unfold Obligations.EveryStepKeepsTheInvariants
  intro s t hs hstep
  have hdrop := hs.dropEvent
  obtain ⟨c, _, hcfg, rfl⟩ | ⟨image, _, hphase, rfl⟩ | ⟨font, _, _, rfl⟩ | ⟨_, hphase, rfl⟩ |
    ⟨keys, rnd, _, _, hcycle⟩ | ⟨_, _, rfl⟩ := step_eq_next hstep
  · exact { resetWith_inv hcfg s.param with }
  · exact hdrop.loadProgram hphase image
  · exact hdrop.load _ _
  · exact hdrop.failLoad hphase
  · exact cycle_keeps_inv (hdrop.present keys rnd) rfl hcycle
  · exact hdrop.tick

/-! ## The fault record is sticky (R18, R143) -/

@[simp] theorem State.loadProgram_fault (s : State) (image : List Byte) : (s.loadProgram image).fault = s.fault := by
  unfold State.loadProgram
  split <;> rfl

/-- Settles O12: a load and a `Tick` write no record, and the cycle of a halted core does nothing. -/
theorem faultRecordIsStickyUntilReset : Obligations.FaultRecordIsStickyUntilReset := by
  unfold Obligations.FaultRecordIsStickyUntilReset
  intro s t hvalid hstep hne
  obtain ⟨c, he, _, _⟩ | ⟨image, _, _, rfl⟩ | ⟨font, _, _, rfl⟩ | ⟨_, _, rfl⟩ | ⟨keys, rnd, _, _, hcycle⟩ |
    ⟨_, _, rfl⟩ := step_eq_next hstep
  · exact absurd he (hne c)
  · simp
  · rfl
  · rfl
  · have hhalted : (s.dropEvent.present keys rnd).cycle = .next (s.dropEvent.present keys rnd) := if_pos hvalid
    rw [hhalted] at hcycle
    cases hcycle
    rfl
  · rfl

/-! ## After reset (R27) -/

/-- Settles O17: field by field; nothing is listed in memory, so every address reads 0x00 (R36). -/
theorem resetLeavesTheStatedValues : Obligations.ResetLeavesTheStatedValues := by
  unfold Obligations.ResetLeavesTheStatedValues
  refine ⟨fun r => ?_, rfl, rfl, rfl, fun k => ?_, rfl, rfl, Memory.read_nil, rfl, rfl, rfl, Frame.pixel_cleared, rfl⟩
  · simp [State.reg, State.reset, State.resetWith]
  · simp [State.reset, State.resetWith]

/-! ## Equal memories are equal data (R20, R36) -/

/-- No address below the first listed one reads anything but what an unlisted one reads. -/
theorem Memory.head_le_of_read_ne {lo a x : Nat} {b : Byte} {m : List Host.Cell}
    (h : Memory.wfFrom lo ((a, b) :: m) = true) (hread : Memory.read ((a, b) :: m) x ≠ Memory.unlisted) : a ≤ x := by
  obtain ⟨_, hrest⟩ := Memory.wfFrom_cons.mp h
  by_contra hlt
  exact hread (Memory.read_below (Memory.wfFrom_cons.mpr ⟨le_rfl, hrest⟩) (by omega))

theorem Memory.read_cons_same (a : Nat) (b : Byte) (m : List Host.Cell) : Memory.read ((a, b) :: m) a = b :=
  if_pos rfl

/-- Behind their common first cell, canonical memories that read alike still read alike. -/
theorem Memory.read_tail_congr {a : Nat} {b : Byte} {m m' : List Host.Cell} (h : Memory.wfFrom (a + 1) m = true)
    (h' : Memory.wfFrom (a + 1) m' = true)
    (hread : ∀ a', Memory.read ((a, b) :: m) a' = Memory.read ((a, b) :: m') a') (a' : Nat) :
    Memory.read m a' = Memory.read m' a' := by
  by_cases ha : a' = a
  · rw [Memory.read_below h (by omega), Memory.read_below h' (by omega)]
  · simpa [Memory.read, ha] using hread a'

/-- Lists in canonical form that read alike at every address are the same list. -/
theorem Memory.eq_of_read_eq {lo lo' : Nat} {m m' : List Host.Cell} (h : Memory.wfFrom lo m = true)
    (h' : Memory.wfFrom lo' m' = true) (hread : ∀ a, Memory.read m a = Memory.read m' a) : m = m' := by
  induction m generalizing lo lo' m' with
  | nil =>
    cases m' with
    | nil => rfl
    | cons c' m' =>
      obtain ⟨a', b'⟩ := c'
      obtain ⟨_, _, hb', _⟩ := Memory.wfFrom_cons.mp h'
      exact absurd ((hread a').trans (Memory.read_cons_same a' b' m')).symm hb'
  | cons c m ih =>
    obtain ⟨a, b⟩ := c
    obtain ⟨_, _, hb, htail⟩ := Memory.wfFrom_cons.mp h
    cases m' with
    | nil => exact absurd ((Memory.read_cons_same a b m).symm.trans (hread a)) hb
    | cons c' m' =>
      obtain ⟨a', b'⟩ := c'
      obtain ⟨_, _, hb', htail'⟩ := Memory.wfFrom_cons.mp h'
      have hhead : Memory.read ((a', b') :: m') a = b := (hread a).symm.trans (Memory.read_cons_same a b m)
      have hhead' : Memory.read ((a, b) :: m) a' = b' := (hread a').trans (Memory.read_cons_same a' b' m')
      obtain rfl : a = a' :=
        le_antisymm (Memory.head_le_of_read_ne h (hhead' ▸ hb')) (Memory.head_le_of_read_ne h' (hhead ▸ hb))
      obtain rfl : b' = b := (Memory.read_cons_same a b' m').symm.trans hhead
      rw [ih htail htail' (Memory.read_tail_congr htail htail' hread)]

/-- Settles O47: outside memory every canonical memory reads the same, so the two read alike at every address. -/
theorem memoriesThatReadAlikeAreEqual : Obligations.MemoriesThatReadAlikeAreEqual := by
  unfold Obligations.MemoriesThatReadAlikeAreEqual
  intro m m' h h' hread
  refine Memory.eq_of_read_eq h h' fun a => ?_
  by_cases ha : a < 4096
  · exact hread a ha
  · rw [Memory.read_outside h (Nat.le_of_not_lt ha), Memory.read_outside h' (Nat.le_of_not_lt ha)]

end Sys2Proof.Machine
end

section
/-!
SUPPORT and PROOFS for spec/20_memory.md. First who writes memory (R30). Then what a block store leaves at each
address (R35, R36), and the loads before and after the first `Step` (R41, R162). Last the fetch: the two bytes at
`pc`, high byte first, are the word that runs (R33), also when `FX55` has just stored them (R40).
-/

namespace Sys2Proof.Machine

/-! ## Who writes memory (R30) -/

theorem footprint_mem {i : Instr} {s t : State} (h : ∀ x, i ≠ .bcd x ∧ i ≠ .saveRegs x) :
    (footprint i s t).mem = s.mem := by
  cases i with
  | bcd x => exact absurd rfl (h x).1
  | saveRegs x => exact absurd rfl (h x).2
  | _ => rfl

/-- Settles O54: memory lies in the footprint of the two stores only, and a fault does not write it. -/
theorem onlyStoresChangeMemory : Obligations.OnlyStoresChangeMemory := by
  unfold Obligations.OnlyStoresChangeMemory
  intro i s t h hi a
  have hmem : t.mem = s.mem := (exec_confined h).keeps State.mem (fun _ _ => rfl) (footprint_mem hi)
  rw [hmem]

/-! ## A block store, address by address (R35, R36) -/

/-- Byte `k` of a block stored inside memory stands at `a + k`. -/
theorem Memory.read_writeBlock_inside {m : Memory} (h : Memory.wf m = true) {a : Nat} {bs : List Byte}
    (hin : a + bs.length ≤ memSize) {k : Nat} (hk : k < bs.length) :
    Memory.read (Memory.writeBlock m a bs) (a + k) = bs[k] := by
  rw [Memory.read_writeBlock h a bs hin, if_pos (Nat.le_add_right a k)]
  simp [hk]

/-- Every address outside a block stored inside memory reads as before. -/
theorem Memory.read_writeBlock_outside {m : Memory} (h : Memory.wf m = true) {a : Nat} {bs : List Byte}
    (hin : a + bs.length ≤ memSize) {a' : Nat} (ha' : a' < a ∨ a + bs.length ≤ a') :
    Memory.read (Memory.writeBlock m a bs) a' = Memory.read m a' := by
  rw [Memory.read_writeBlock h a bs hin]
  obtain hbelow | habove := ha'
  · exact if_neg (Nat.not_le_of_lt hbelow)
  · have hend : bs[a' - a]? = none := List.getElem?_eq_none (by omega)
    simp [hend]

/-! ## Loads and the life cycle (R41, R162) -/

theorem State.whileLoading_of_loading {s : State} (h : s.phase = .loading) (t : State) :
    s.whileLoading t = .next t := by
  simp [State.whileLoading, h]

theorem State.whileLoading_of_running {s : State} (h : s.phase = .running) (t : State) :
    s.whileLoading t = .refused .loadAfterFirstStep := by
  simp [State.whileLoading, h]

/-- Before the first `Step`, an event that is a load is answered with its effect. -/
theorem step_of_load {s t : State} {e : Event} (he : s.nextEvent = e) (hphase : s.phase = .loading)
    (hload : s.dropEvent.perform e = s.dropEvent.whileLoading t) : step s = .next t := by
  rw [step_eq he, hload]
  exact State.whileLoading_of_loading hphase t

/-- An image of at most 3584 bytes goes to 0x200. -/
theorem State.loadProgram_of_length_le (s : State) {image : List Byte} (h : image.length ≤ 3584) :
    s.loadProgram image = s.load 0x200 image :=
  if_pos (decide_eq_true h)

/-- An image of more than 3584 bytes is a failed load. -/
theorem State.loadProgram_of_length_gt (s : State) {image : List Byte} (h : 3584 < image.length) :
    s.loadProgram image = s.failLoad :=
  if_neg (by simpa [programFits] using h)

/-- Settles O20: the image fits and lies inside memory, so the load is one block store at 0x200. -/
theorem loadProgramStoresTheImageAt0x200 : Obligations.LoadProgramStoresTheImageAt0x200 := by
  unfold Obligations.LoadProgramStoresTheImageAt0x200
  intro s image he hphase hlen hmem
  have hin : 0x200 + image.length ≤ 4096 := by omega
  refine ⟨s.dropEvent.load 0x200 image, ?_, fun k hk => Memory.read_writeBlock_inside hmem hin hk,
    fun a ha => Memory.read_writeBlock_outside hmem hin ha, rfl⟩
  rw [← State.loadProgram_of_length_le _ hlen]
  exact step_of_load he hphase rfl

/-- Settles O21: a table at or below 0x0FB0 lies inside memory, so the load is one block store at the font's base. -/
theorem loadFontStoresTheTableAtFontStart : Obligations.LoadFontStoresTheTableAtFontStart := by
  unfold Obligations.LoadFontStoresTheTableAtFontStart
  intro s font he hphase hstart hmem
  have hlen : font.toList.length = 80 := font.length_toList
  have hin : s.cfg.fontStart.toNat + font.toList.length ≤ 4096 := by omega
  refine ⟨s.dropEvent.loadFont font, step_of_load he hphase rfl, fun k => ?_, fun a ha => ?_, rfl⟩
  · exact Memory.read_writeBlock_inside hmem hin (hlen.symm ▸ k.isLt)
  · exact Memory.read_writeBlock_outside hmem hin (hlen.symm ▸ ha)

/-- Settles O22: both ways to fail end in the same failed load, which writes memory and the phase alone; in that
phase only `Reset` is a transition. -/
theorem failedLoadAdmitsOnlyReset : Obligations.FailedLoadAdmitsOnlyReset := by
  unfold Obligations.FailedLoadAdmitsOnlyReset
  refine ⟨fun s hphase hfails => ⟨s.dropEvent.failLoad, ?_, rfl, rfl⟩, fun s => step_stuck⟩
  obtain he | ⟨image, he, hlong⟩ := hfails
  · exact step_of_load he hphase rfl
  · rw [← State.loadProgram_of_length_gt _ hlong]
    exact step_of_load he hphase rfl

/-- Settles O23: a `Step` presents its inputs in the running phase, which nothing it runs leaves, and there every
load is refused. -/
theorem loadAfterTheFirstStepIsRefused : Obligations.LoadAfterTheFirstStepIsRefused := by
  unfold Obligations.LoadAfterTheFirstStepIsRefused
  refine ⟨fun s t keys rnd he hstep => ?_, fun s image font hphase hload => ?_⟩
  · exact congrArg HostSide.phase (answered_step_hostSide he hstep)
  · obtain he | he | he := hload <;> rw [step_eq he] <;> exact State.whileLoading_of_running hphase _

/-! ## The word that is fetched (R33) -/

/-- Two bytes, high byte first, as the number they form. -/
theorem wordOfBytes_eq_ofNat (hi lo : Byte) : wordOfBytes hi lo = BitVec.ofNat 16 (hi.toNat * 256 + lo.toNat) := by
  rw [← wordOfBytes_toNat, BitVec.ofNat_toNat, BitVec.setWidth_eq]

/-- The cycle of a core free to fetch is the instruction of the word at `pc` (R65). -/
theorem cycle_of_decode_fetchWord {s : State} {i : Instr} (hvalid : s.fault.valid = false)
    (hwait : s.awaitingKey = false) (hpc : s.pc.toNat ≤ 0x0FFE) (hdec : decode s.fetchWord = .known i) :
    s.cycle = exec i s := by
  simp [State.cycle, hvalid, hwait, State.fetchInRange, hpc, State.execWord, hdec]

/-- Settles O6: presenting the inputs changes neither `pc` nor memory, so the cycle fetches the two bytes named. -/
theorem stepRunsTheDecodedInstruction : Obligations.StepRunsTheDecodedInstruction := by
  unfold Obligations.StepRunsTheDecodedInstruction
  rintro s keys rnd hi lo i he ⟨hvalid, hwait, hphase⟩ hpc rfl rfl hdec
  rw [← wordOfBytes_eq_ofNat] at hdec
  exact (step_of_step he hphase).trans (cycle_of_decode_fetchWord hvalid hwait hpc hdec)

/-! ## Stored registers are fetched (R40) -/

/-- Where `V[0]` to `V[x]` fit, `FX55` stores them as one block at `I` (R99). -/
theorem saveRegs_mem {s t : State} {x : Nibble} (hin : s.index.toNat + x.toNat ≤ 0x0FFF)
    (h : exec (.saveRegs x) s = .next t) : t.mem = Memory.writeBlock s.mem s.index.toNat (s.regsTo x) := by
  have hfits : s.blockFits (x.toNat + 1) = true := (s.blockFits_iff x.toNat.succ_pos).mpr hin
  cases h
  simp [State.guardBlock, hfits]

/-- `FX55` leaves `V[r]` at `I + r`, for each `r` up to `x` (R99). -/
theorem saveRegs_read {s t : State} {x r : Nibble} (hmem : Memory.wf s.mem = true)
    (hin : s.index.toNat + x.toNat ≤ 0x0FFF) (h : exec (.saveRegs x) s = .next t) (hr : r.toNat ≤ x.toNat) :
    Memory.read t.mem (s.index.toNat + r.toNat) = s.reg r := by
  have hlen := s.regsTo_length x
  rw [saveRegs_mem hin h, Memory.read_writeBlock_inside hmem (by simp only [memSize]; omega) (by omega)]
  simp [State.regsTo]

/-- Settles O46: `V[0]` and `V[1]` stand at `I` and `I + 1`, the two bytes the next `Step` fetches. -/
theorem storedBytesAreFetchedByTheNextStep : Obligations.StoredBytesAreFetchedByTheNextStep := by
  unfold Obligations.StoredBytesAreFetchedByTheNextStep
  intro s t u x keys rnd i hmem hx hin hsave hu hpc hready he hdec
  have hhi : Memory.read u.mem u.pc.toNat = s.reg 0 := by
    rw [hu, hpc]
    exact saveRegs_read (r := 0) hmem hin hsave (Nat.zero_le _)
  have hlo : Memory.read u.mem (u.pc.toNat + 1) = s.reg 1 := by
    rw [hu, hpc]
    exact saveRegs_read (r := 1) hmem hin hsave hx
  exact stepRunsTheDecodedInstruction u keys rnd _ _ i he hready (by rw [hpc]; omega) hhi hlo hdec

end Sys2Proof.Machine
end

section
/-!
SUPPORT and PROOFS for spec/30_encoding.md. First the decoder family by family, its answers and its rejections
(R54, R56), and with them the round trip in both directions (R62). Then the rows of the opcode map: the words a row
selects are words of instructions, and no word selects two rows (R55). Last what a `Step` does with the decoder's
answer: every word has an outcome (R138), and a word of no row raises `UnknownOpcode` (R57, R132).
-/

namespace Sys2Proof

/-! ## A word and its fields (R51, R62) -/

theorem encodeA_fields (w : Word) : encodeA (fieldMajor w) (fieldNNN w) = w := by
  apply BitVec.eq_of_toNat_eq
  rw [encodeA_toNat, fieldMajor_toNat, fieldNNN_toNat]
  omega

theorem encodeXI_fields (w : Word) : encodeXI (fieldMajor w) (fieldX w) (fieldNN w) = w := by
  apply BitVec.eq_of_toNat_eq
  rw [encodeXI_toNat, fieldMajor_toNat, fieldX_toNat, fieldNN_toNat]
  omega

theorem encodeXY_fields (w : Word) : encodeXY (fieldMajor w) (fieldX w) (fieldY w) (fieldN w) = w := by
  apply BitVec.eq_of_toNat_eq
  rw [encodeXY_toNat, fieldMajor_toNat, fieldX_toNat, fieldY_toNat, fieldN_toNat]
  omega

theorem nibble_cases (n : Nibble) :
    n = 0x0 ∨ n = 0x1 ∨ n = 0x2 ∨ n = 0x3 ∨ n = 0x4 ∨ n = 0x5 ∨ n = 0x6 ∨ n = 0x7 ∨ n = 0x8 ∨ n = 0x9 ∨ n = 0xA ∨
    n = 0xB ∨ n = 0xC ∨ n = 0xD ∨ n = 0xE ∨ n = 0xF := by
  decide +revert

/-! ## The dispatch on `n0` (R54) -/

/-- Everything `decodeInstr` can answer, by the leading nibble. -/
theorem decodeInstr_cases (w : Word) :
    (fieldMajor w = 0x0 ∧ decodeInstr w = decodeZero w) ∨
    (fieldMajor w = 0x1 ∧ decodeInstr w = some (.jump (fieldNNN w))) ∨
    (fieldMajor w = 0x2 ∧ decodeInstr w = some (.call (fieldNNN w))) ∨
    (fieldMajor w = 0x3 ∧ decodeInstr w = some (.skipEqImm (fieldX w) (fieldNN w))) ∨
    (fieldMajor w = 0x4 ∧ decodeInstr w = some (.skipNeImm (fieldX w) (fieldNN w))) ∨
    (fieldMajor w = 0x5 ∧ decodeInstr w = if fieldN w = 0x0 then some (.skipEqReg (fieldX w) (fieldY w)) else none) ∨
    (fieldMajor w = 0x6 ∧ decodeInstr w = some (.loadImm (fieldX w) (fieldNN w))) ∨
    (fieldMajor w = 0x7 ∧ decodeInstr w = some (.addImm (fieldX w) (fieldNN w))) ∨
    (fieldMajor w = 0x8 ∧ decodeInstr w = decodeAlu (fieldX w) (fieldY w) (fieldN w)) ∨
    (fieldMajor w = 0x9 ∧ decodeInstr w = if fieldN w = 0x0 then some (.skipNeReg (fieldX w) (fieldY w)) else none) ∨
    (fieldMajor w = 0xA ∧ decodeInstr w = some (.loadIndex (fieldNNN w))) ∨
    (fieldMajor w = 0xB ∧ decodeInstr w = some (.jumpOffset (fieldNNN w))) ∨
    (fieldMajor w = 0xC ∧ decodeInstr w = some (.random (fieldX w) (fieldNN w))) ∨
    (fieldMajor w = 0xD ∧ decodeInstr w = some (.draw (fieldX w) (fieldY w) (fieldN w))) ∨
    (fieldMajor w = 0xE ∧ decodeInstr w = decodeKey (fieldX w) (fieldNN w)) ∨
    (fieldMajor w = 0xF ∧ decodeInstr w = decodeMisc (fieldX w) (fieldNN w)) := by
  obtain h | h | h | h | h | h | h | h | h | h | h | h | h | h | h | h := nibble_cases (fieldMajor w) <;>
    simp [decodeInstr, h]

theorem decodeInstr_alu (x y n : Nibble) : decodeInstr (encodeXY 0x8 x y n) = decodeAlu x y n := by
  simp [decodeInstr]

theorem decodeInstr_key (x : Nibble) (nn : Byte) : decodeInstr (encodeXI 0xE x nn) = decodeKey x nn := by
  simp [decodeInstr]

theorem decodeInstr_misc (x : Nibble) (nn : Byte) : decodeInstr (encodeXI 0xF x nn) = decodeMisc x nn := by
  simp [decodeInstr]

/-! ## What the families answer (R54) -/

theorem decodeZero_eq_some {w : Word} {i : Instr} (h : decodeZero w = some i) : encode i = w := by
  unfold decodeZero at h
  split_ifs at h with hclear hret
  · cases h; exact hclear.symm
  · cases h; exact hret.symm

theorem decodeAlu_eq_some {x y n : Nibble} {i : Instr} (h : decodeAlu x y n = some i) :
    encode i = encodeXY 0x8 x y n := by
  obtain rfl | rfl | rfl | rfl | rfl | rfl | rfl | rfl | rfl | rfl | rfl | rfl | rfl | rfl | rfl | rfl :=
    nibble_cases n <;> cases h <;> rfl

theorem decodeKey_eq_some {x : Nibble} {nn : Byte} {i : Instr} (h : decodeKey x nn = some i) :
    encode i = encodeXI 0xE x nn := by
  unfold decodeKey at h
  split_ifs at h with hnn hnn <;> cases h <;> rw [hnn] <;> rfl

theorem decodeMisc_eq_some {x : Nibble} {nn : Byte} {i : Instr} (h : decodeMisc x nn = some i) :
    encode i = encodeXI 0xF x nn := by
  unfold decodeMisc at h
  split_ifs at h with hnn hnn hnn hnn hnn hnn hnn hnn hnn <;> cases h <;> rw [hnn] <;> rfl

/-! ## What the families reject (R56) -/

theorem ite_some_eq_none {α : Type} {p : Prop} [Decidable p] {a : α} {r : Option α} :
    (if p then some a else r) = none ↔ ¬ p ∧ r = none := by
  split_ifs with hp <;> simp [hp]

theorem decodeZero_eq_none {w : Word} : decodeZero w = none ↔ w ≠ 0x00E0 ∧ w ≠ 0x00EE := by
  simp [decodeZero, ite_some_eq_none]

theorem decodeAlu_eq_none {x y n : Nibble} :
    decodeAlu x y n = none ↔ n.toNat ∈ [0x8, 0x9, 0xA, 0xB, 0xC, 0xD, 0xF] := by
  obtain rfl | rfl | rfl | rfl | rfl | rfl | rfl | rfl | rfl | rfl | rfl | rfl | rfl | rfl | rfl | rfl :=
    nibble_cases n <;> simp [decodeAlu]

theorem decodeKey_eq_none {x : Nibble} {nn : Byte} : decodeKey x nn = none ↔ nn.toNat ∉ [0x9E, 0xA1] := by
  simp [decodeKey, ite_some_eq_none, ← BitVec.toNat_inj]

theorem decodeMisc_eq_none {x : Nibble} {nn : Byte} :
    decodeMisc x nn = none ↔ nn.toNat ∉ [0x07, 0x0A, 0x15, 0x18, 0x1E, 0x29, 0x33, 0x55, 0x65] := by
  simp [decodeMisc, ite_some_eq_none, ← BitVec.toNat_inj]

/-! ## The round trip (R54, R62) -/

theorem decodeInstr_encode (i : Instr) : decodeInstr (encode i) = some i := by
  cases i with
  | clearDisplay | ret => rfl
  | move x y | orReg x y | andReg x y | xorReg x y | addReg x y | sub x y | shiftRight x y | subN x y
  | shiftLeft x y => exact decodeInstr_alu x y _
  | skipKey x | skipNotKey x => exact decodeInstr_key x _
  | getDelay x | waitKey x | setDelay x | setSound x | addIndex x | fontAddr x | bcd x | saveRegs x
  | loadRegs x => exact decodeInstr_misc x _
  | _ => simp [encode, decodeInstr]

@[simp] theorem decode_encode (i : Instr) : decode (encode i) = .known i :=
  decode_eq_known.mpr (decodeInstr_encode i)

/-- Settles O1: the word comes back by the dispatch on its fields; the two bytes, high byte first, are the word. -/
theorem decodeReadsBackEveryEncodedInstruction : Obligations.DecodeReadsBackEveryEncodedInstruction := by
  unfold Obligations.DecodeReadsBackEveryEncodedInstruction
  refine fun i rest => ⟨decode_encode i, ?_⟩
  change decodeBytes ((encode i).extractLsb' 8 8 :: (encode i).extractLsb' 0 8 :: rest) = .ok (i, rest)
  rw [decodeBytes_cons, wordOfBytes_wordBytes, decode_encode]

/-- A word is put together again from the fields its instruction was read from. -/
theorem encode_of_decodeInstr {w : Word} {i : Instr} (h : decodeInstr w = some i) : encode i = w := by
  have hA := encodeA_fields w
  have hXI := encodeXI_fields w
  have hXY := encodeXY_fields w
  obtain ⟨hm, hd⟩ | ⟨hm, hd⟩ | ⟨hm, hd⟩ | ⟨hm, hd⟩ | ⟨hm, hd⟩ | ⟨hm, hd⟩ | ⟨hm, hd⟩ | ⟨hm, hd⟩ | ⟨hm, hd⟩ | ⟨hm, hd⟩ |
    ⟨hm, hd⟩ | ⟨hm, hd⟩ | ⟨hm, hd⟩ | ⟨hm, hd⟩ | ⟨hm, hd⟩ | ⟨hm, hd⟩ := decodeInstr_cases w <;>
    rw [hd] at h <;> rw [hm] at hA hXI hXY
  · exact decodeZero_eq_some h
  · cases h; exact hA
  · cases h; exact hA
  · cases h; exact hXI
  · cases h; exact hXI
  · split_ifs at h with hn; cases h; rwa [hn] at hXY
  · cases h; exact hXI
  · cases h; exact hXI
  · exact (decodeAlu_eq_some h).trans hXY
  · split_ifs at h with hn; cases h; rwa [hn] at hXY
  · cases h; exact hA
  · cases h; exact hA
  · cases h; exact hXI
  · cases h; exact hXY
  · exact (decodeKey_eq_some h).trans hXI
  · exact (decodeMisc_eq_some h).trans hXI

/-- Settles O2: the encoder puts the fields back where the decoder read them. -/
theorem everyAssignedWordIsTheWordOfItsInstruction : Obligations.EveryAssignedWordIsTheWordOfItsInstruction := by
  unfold Obligations.EveryAssignedWordIsTheWordOfItsInstruction
  exact fun w i h => encode_of_decodeInstr (decode_eq_known.mp h)

/-! ## The unassigned words (R56) -/

/-- The families not named here reject nothing. -/
theorem decodeInstr_eq_none {w : Word} : decodeInstr w = none ↔
    ((fieldMajor w).toNat = 0x0 ∧ w ≠ 0x00E0 ∧ w ≠ 0x00EE) ∨
    ((fieldMajor w).toNat = 0x5 ∧ (fieldN w).toNat ≠ 0) ∨
    ((fieldMajor w).toNat = 0x8 ∧ (fieldN w).toNat ∈ [0x8, 0x9, 0xA, 0xB, 0xC, 0xD, 0xF]) ∨
    ((fieldMajor w).toNat = 0x9 ∧ (fieldN w).toNat ≠ 0) ∨
    ((fieldMajor w).toNat = 0xE ∧ (fieldNN w).toNat ∉ [0x9E, 0xA1]) ∨
    ((fieldMajor w).toNat = 0xF ∧ (fieldNN w).toNat ∉ [0x07, 0x0A, 0x15, 0x18, 0x1E, 0x29, 0x33, 0x55, 0x65]) := by
  obtain ⟨hm, hd⟩ | ⟨hm, hd⟩ | ⟨hm, hd⟩ | ⟨hm, hd⟩ | ⟨hm, hd⟩ | ⟨hm, hd⟩ | ⟨hm, hd⟩ | ⟨hm, hd⟩ | ⟨hm, hd⟩ | ⟨hm, hd⟩ |
    ⟨hm, hd⟩ | ⟨hm, hd⟩ | ⟨hm, hd⟩ | ⟨hm, hd⟩ | ⟨hm, hd⟩ | ⟨hm, hd⟩ := decodeInstr_cases w <;>
    simp [hm, hd, decodeZero_eq_none, decodeAlu_eq_none, decodeKey_eq_none, decodeMisc_eq_none, ← BitVec.toNat_inj]

/-- Settles O4: the classes of R56, with the fields as numbers. -/
theorem unknownWordsAreTheSixUnassignedClasses : Obligations.UnknownWordsAreTheSixUnassignedClasses := by
  unfold Obligations.UnknownWordsAreTheSixUnassignedClasses
  intro w u
  rw [decode_eq_unknown, decodeInstr_eq_none, fieldMajor_toNat, fieldN_toNat, fieldNN_toNat]

/-! ## Fixed words (R55) -/

/-- Settles O5: the decoder runs on each word. -/
theorem wordsWrittenFromTheSpecDecode : Obligations.WordsWrittenFromTheSpecDecode := by
  unfold Obligations.WordsWrittenFromTheSpecDecode
  decide

/-! ## The rows of the opcode map (R55) -/

theorem OpcodeRow.selects_iff {r : OpcodeRow} {w : Word} : r.selects w = true ↔ w &&& r.mask = r.pattern :=
  beq_iff_eq

/-- Two rows that select one word agree on the bits both masks keep. -/
theorem OpcodeRow.patterns_agree {q r : OpcodeRow} {w : Word} (hq : q.selects w = true) (hr : r.selects w = true) :
    q.pattern &&& r.mask = r.pattern &&& q.mask := by
  rw [← OpcodeRow.selects_iff.mp hq, ← OpcodeRow.selects_iff.mp hr, BitVec.and_assoc, BitVec.and_assoc,
    BitVec.and_comm q.mask]

/-- Two different rows differ on a bit that both masks keep: a finite check of the 34 rows. -/
theorem opcodeRows_disjoint : ∀ q ∈ opcodeRows, ∀ r ∈ opcodeRows,
    q.pattern &&& r.mask = r.pattern &&& q.mask → q = r := by
  decide

/-- Every instruction's word selects the row named after it. -/
theorem encode_selects_own_row : ∀ i : Instr, Laws.RowFormat.Statement i
  | .clearDisplay => Laws.RowFormat.clearDisplay
  | .ret => Laws.RowFormat.ret
  | .jump nnn => Laws.RowFormat.jump nnn
  | .call nnn => Laws.RowFormat.call nnn
  | .skipEqImm x nn => Laws.RowFormat.skipEqImm x nn
  | .skipNeImm x nn => Laws.RowFormat.skipNeImm x nn
  | .skipEqReg x y => Laws.RowFormat.skipEqReg x y
  | .loadImm x nn => Laws.RowFormat.loadImm x nn
  | .addImm x nn => Laws.RowFormat.addImm x nn
  | .move x y => Laws.RowFormat.move x y
  | .orReg x y => Laws.RowFormat.orReg x y
  | .andReg x y => Laws.RowFormat.andReg x y
  | .xorReg x y => Laws.RowFormat.xorReg x y
  | .addReg x y => Laws.RowFormat.addReg x y
  | .sub x y => Laws.RowFormat.sub x y
  | .shiftRight x y => Laws.RowFormat.shiftRight x y
  | .subN x y => Laws.RowFormat.subN x y
  | .shiftLeft x y => Laws.RowFormat.shiftLeft x y
  | .skipNeReg x y => Laws.RowFormat.skipNeReg x y
  | .loadIndex nnn => Laws.RowFormat.loadIndex nnn
  | .jumpOffset nnn => Laws.RowFormat.jumpOffset nnn
  | .random x nn => Laws.RowFormat.random x nn
  | .draw x y n => Laws.RowFormat.draw x y n
  | .skipKey x => Laws.RowFormat.skipKey x
  | .skipNotKey x => Laws.RowFormat.skipNotKey x
  | .getDelay x => Laws.RowFormat.getDelay x
  | .waitKey x => Laws.RowFormat.waitKey x
  | .setDelay x => Laws.RowFormat.setDelay x
  | .setSound x => Laws.RowFormat.setSound x
  | .addIndex x => Laws.RowFormat.addIndex x
  | .fontAddr x => Laws.RowFormat.fontAddr x
  | .bcd x => Laws.RowFormat.bcd x
  | .saveRegs x => Laws.RowFormat.saveRegs x
  | .loadRegs x => Laws.RowFormat.loadRegs x

/-! ### A row selects no unassigned word -/

theorem fieldMajor_and (a b : Word) : fieldMajor (a &&& b) = fieldMajor a &&& fieldMajor b :=
  BitVec.extractLsb'_and
theorem fieldN_and (a b : Word) : fieldN (a &&& b) = fieldN a &&& fieldN b := BitVec.extractLsb'_and
theorem fieldNN_and (a b : Word) : fieldNN (a &&& b) = fieldNN a &&& fieldNN b := BitVec.extractLsb'_and

section
variable {r : OpcodeRow} {w : Word}

theorem OpcodeRow.fieldMajor_pattern (h : r.selects w = true) (hmask : fieldMajor r.mask = 0xF) :
    fieldMajor r.pattern = fieldMajor w := by
  rw [← OpcodeRow.selects_iff.mp h, fieldMajor_and, hmask, nibble_and_ones]

theorem OpcodeRow.fieldN_pattern (h : r.selects w = true) (hmask : fieldN r.mask = 0xF) :
    fieldN r.pattern = fieldN w := by
  rw [← OpcodeRow.selects_iff.mp h, fieldN_and, hmask, nibble_and_ones]

theorem OpcodeRow.fieldNN_pattern (h : r.selects w = true) (hmask : fieldNN r.mask = 0xFF) :
    fieldNN r.pattern = fieldNN w := by
  rw [← OpcodeRow.selects_iff.mp h, fieldNN_and, hmask, byte_and_ones]

theorem OpcodeRow.pattern_eq (h : r.selects w = true) (hmask : r.mask = 0xFFFF) : r.pattern = w := by
  rw [← OpcodeRow.selects_iff.mp h, hmask]
  exact BitVec.and_allOnes

/-- A mask keeps every bit its family dispatches on: a finite check of the 34 rows. -/
theorem opcodeRows_masks : ∀ r ∈ opcodeRows, fieldMajor r.mask = 0xF ∧
    ((fieldMajor r.pattern).toNat = 0x0 → r.mask = 0xFFFF) ∧
    ((fieldMajor r.pattern).toNat ∈ [0x5, 0x8, 0x9] → fieldN r.mask = 0xF) ∧
    ((fieldMajor r.pattern).toNat ∈ [0xE, 0xF] → fieldNN r.mask = 0xFF) := by
  decide

/-- The word with every masked bit 0 is assigned in every row. -/
theorem opcodeRows_patterns_assigned : ∀ r ∈ opcodeRows, decodeInstr r.pattern ≠ none := by
  decide

/-- A selected row's pattern agrees with the word on every bit that the word's family dispatches on. -/
theorem OpcodeRow.pattern_agrees (hr : r ∈ opcodeRows) (h : r.selects w = true) :
    fieldMajor r.pattern = fieldMajor w ∧
    ((fieldMajor w).toNat = 0x0 → r.pattern = w) ∧
    ((fieldMajor w).toNat ∈ [0x5, 0x8, 0x9] → fieldN r.pattern = fieldN w) ∧
    ((fieldMajor w).toNat ∈ [0xE, 0xF] → fieldNN r.pattern = fieldNN w) := by
  obtain ⟨hmajor, hzero, hn, hnn⟩ := opcodeRows_masks r hr
  have hm := OpcodeRow.fieldMajor_pattern h hmajor
  rw [hm] at hzero hn hnn
  exact ⟨hm, fun hf => OpcodeRow.pattern_eq h (hzero hf), fun hf => OpcodeRow.fieldN_pattern h (hn hf),
    fun hf => OpcodeRow.fieldNN_pattern h (hnn hf)⟩

/-- If an unassigned word selected a row, the row's own pattern would lie in the word's class of R56. -/
theorem decodeInstr_pattern_eq_none (hr : r ∈ opcodeRows) (hsel : r.selects w = true) (h : decodeInstr w = none) :
    decodeInstr r.pattern = none := by
  obtain ⟨hm, hzero, hn, hnn⟩ := OpcodeRow.pattern_agrees hr hsel
  rw [decodeInstr_eq_none, hm]
  obtain ⟨hf, hw⟩ | ⟨hf, hw⟩ | ⟨hf, hw⟩ | ⟨hf, hw⟩ | ⟨hf, hw⟩ | ⟨hf, hw⟩ := decodeInstr_eq_none.mp h <;>
    simp only [hf, List.mem_cons, true_or, or_true, true_imp_iff] at hzero hn hnn
  · exact .inl ⟨hf, hzero ▸ hw⟩
  · exact .inr (.inl ⟨hf, hn ▸ hw⟩)
  · exact .inr (.inr (.inl ⟨hf, hn ▸ hw⟩))
  · exact .inr (.inr (.inr (.inl ⟨hf, hn ▸ hw⟩)))
  · exact .inr (.inr (.inr (.inr (.inl ⟨hf, hnn ▸ hw⟩))))
  · exact .inr (.inr (.inr (.inr (.inr ⟨hf, hnn ▸ hw⟩))))

end

theorem selects_eq_false_of_unassigned {r : OpcodeRow} {w : Word} (h : decodeInstr w = none) (hr : r ∈ opcodeRows) :
    r.selects w = false :=
  Bool.eq_false_iff.mpr fun hsel => opcodeRows_patterns_assigned r hr (decodeInstr_pattern_eq_none hr hsel h)

theorem decode_of_no_row {w : Word} (h : ∀ r ∈ opcodeRows, r.selects w = false) : decode w = .unknown w := by
  refine decode_eq_unknown.mpr ⟨rfl, Option.eq_none_iff_forall_ne_some.mpr fun i hi => ?_⟩
  obtain rfl := encode_of_decodeInstr hi
  obtain ⟨r, hr, _, hsel⟩ := encode_selects_own_row i
  exact Bool.false_ne_true ((h r hr).symm.trans hsel)

/-- Settles O3: the word is the word of its instruction, which selects the instruction's row, and two rows never
select one word. An unassigned word selects none. -/
theorem decodedWordSelectsExactlyItsOwnRow : Obligations.DecodedWordSelectsExactlyItsOwnRow := by
  unfold Obligations.DecodedWordSelectsExactlyItsOwnRow
  refine fun w => ⟨fun i hi => ?_, fun u hu q hq => ?_⟩
  · obtain rfl := encode_of_decodeInstr (decode_eq_known.mp hi)
    obtain ⟨r, hr, hname, hsel⟩ := encode_selects_own_row i
    refine ⟨r, hr, hname, fun q hq => ⟨fun hq' => ?_, fun hqr => hqr ▸ hsel⟩⟩
    exact opcodeRows_disjoint q hq r hr (OpcodeRow.patterns_agree hq' hsel)
  · exact selects_eq_false_of_unassigned (decode_eq_unknown.mp hu).2 hq

end Sys2Proof

namespace Sys2Proof.Machine

/-! ## The outcome of every word (R57, R132, R138) -/

/-- Every instruction answers: only the stack instructions have two branches, and both answer. -/
theorem exec_answers (i : Instr) (s : State) : ∃ t, exec i s = .next t := by
  cases i with
  | ret =>
    change ∃ t, execRet s = .next t
    unfold execRet
    split <;> exact ⟨_, rfl⟩
  | call nnn =>
    change ∃ t, execCall nnn s = .next t
    unfold execCall
    split <;> exact ⟨_, rfl⟩
  | _ => exact ⟨_, rfl⟩

theorem cycle_answers (s : State) : ∃ t, s.cycle = .next t := by
  obtain ⟨_, hc⟩ | ⟨_, _, hc⟩ | ⟨_, _, _, hc⟩ | ⟨_, _, _, _, hc⟩ | ⟨_, _, _, i, _, hc⟩ := cycle_cases s
  case inr.inr.inr.inr => exact hc ▸ exec_answers i s
  all_goals exact ⟨_, hc⟩

/-- Settles O13: the transition of either event is an answer, a `Tick`'s outright and a `Step`'s on every branch of
its cycle. -/
theorem stepAndTickAlwaysAnswer : Obligations.StepAndTickAlwaysAnswer := by
  unfold Obligations.StepAndTickAlwaysAnswer
  rintro s hphase (htick | ⟨keys, rnd, hstep⟩)
  · exact ⟨_, step_of_tick htick hphase⟩
  · rw [step_of_step hstep hphase]
    exact cycle_answers _

theorem cycle_of_unassigned_fetchWord {s : State} (hvalid : s.fault.valid = false) (hwait : s.awaitingKey = false)
    (hpc : s.pc.toNat ≤ 0x0FFE) (hdec : decode s.fetchWord = .unknown s.fetchWord) :
    s.cycle = .next (s.raise .unknownOpcode s.fetchWord) := by
  simp [State.cycle, hvalid, hwait, State.fetchInRange, hpc, State.execWord, hdec]

/-- Settles O8: a word of an instruction would select its row, so the fetched word decodes to `Unknown`. -/
theorem unassignedWordRaisesUnknownOpcode : Obligations.UnassignedWordRaisesUnknownOpcode := by
  unfold Obligations.UnassignedWordRaisesUnknownOpcode
  rintro s keys rnd w he ⟨hvalid, hwait, hphase⟩ hpc hw hrows
  obtain rfl : w = s.fetchWord := BitVec.eq_of_toNat_eq (hw.trans (wordOfBytes_toNat _ _).symm)
  exact (step_of_step he hphase).trans (cycle_of_unassigned_fetchWord hvalid hwait hpc (decode_of_no_row hrows))

end Sys2Proof.Machine
end

section
/-!
SUPPORT and PROOFS for spec/40_fetch_and_control_flow.md. First the two ends of the step cycle that run no
instruction: a halted core (R65, R143) and a `pc` outside memory (R67). Then control transfer: the call stack
(R70, R72), the jumps (R71, R77) and the skips (R73 to R76).
-/

namespace Sys2Proof.Machine

/-! ## Steps that run no instruction (R65, R67) -/

theorem cycle_of_halted {s : State} (hvalid : s.fault.valid = true) : s.cycle = .next s := if_pos hvalid

theorem cycle_of_pc_outside {s : State} (hvalid : s.fault.valid = false) (hwait : s.awaitingKey = false)
    (hpc : 0x0FFE < s.pc.toNat) : s.cycle = .next (s.raise .fetchRange s.pc) := by
  have hout : s.fetchInRange = false := decide_eq_false (by omega)
  simp [State.cycle, hvalid, hwait, hout]

/-- Settles O7: presenting the inputs leaves `pc`, the record and the wait as they are, so the cycle reaches the
fetch and finds `pc` outside memory. -/
theorem fetchOutsideMemoryRaisesFetchRange : Obligations.FetchOutsideMemoryRaisesFetchRange := by
  unfold Obligations.FetchOutsideMemoryRaisesFetchRange
  rintro s keys rnd he ⟨hvalid, hwait, hphase⟩ hpc
  exact (step_of_step he hphase).trans (cycle_of_pc_outside hvalid hwait hpc)

/-- Settles O9: the record is tested first, before the wait and the fetch. -/
theorem haltedCoreIgnoresEveryStep : Obligations.HaltedCoreIgnoresEveryStep := by
  unfold Obligations.HaltedCoreIgnoresEveryStep
  intro s keys rnd he hphase hvalid
  exact (step_of_step he hphase).trans (cycle_of_halted hvalid)

/-! ## An instruction and its word (R62) -/

/-- The decoder reads back every encoded word, so only the number is to be shown. -/
theorem encodedAs_of_toNat {i : Instr} {w : Nat} (h : (encode i).toNat = w) : EncodedAs i w :=
  ⟨h, decode_encode i⟩

/-! ## The call stack (R70, R72) -/

theorem exec_ret_of_succ {s : State} (k : Fin 32) (h : s.sp.val = k.val + 1) :
    exec .ret s = .next { s with pc := s.stack[k], sp := ⟨k.val, by omega⟩ } := by
  change execRet s = _
  rw [execRet, State.pop_of_succ k h]
  rfl

theorem exec_ret_of_empty {s : State} (h : s.sp.val = 0) :
    exec .ret s = .next (s.raise .stackUnderflow 0x0000) := by
  change execRet s = _
  rw [execRet, State.pop_of_empty h]

theorem exec_call_of_lt {s : State} (nnn : Addr) (h : s.sp.val < 32) :
    exec (.call nnn) s = .next { s with
      pc := addrWord nnn, stack := s.stack.set s.sp.val s.npc h, sp := ⟨s.sp.val + 1, Nat.succ_lt_succ h⟩ } := by
  change execCall nnn s = _
  rw [execCall, State.push_of_lt _ h]
  rfl

theorem exec_call_of_full {s : State} (nnn : Addr) (h : s.sp.val = 32) :
    exec (.call nnn) s = .next (s.raise .stackOverflow 0x0020) := by
  change execCall nnn s = _
  rw [execCall, State.push_of_full _ h]

/-- Settles O24: a pop of entry `k` where there is one, the fault where the stack is empty. -/
theorem returnPopsTheStackIntoPc : Obligations.ReturnPopsTheStackIntoPc := by
  unfold Obligations.ReturnPopsTheStackIntoPc
  refine ⟨encodedAs_of_toNat rfl, fun s k hsp => ?_, fun s hsp => exec_ret_of_empty hsp⟩
  exact ⟨_, exec_ret_of_succ k hsp, rfl, rfl, rfl⟩

/-- Settles O26: a push of `npc` at entry `k` where there is room, the fault where the stack is full. -/
theorem callPushesTheReturnAddressAndJumps : Obligations.CallPushesTheReturnAddressAndJumps := by
  unfold Obligations.CallPushesTheReturnAddressAndJumps
  refine ⟨fun nnn => encodedAs_of_toNat (encodeA_toNat 0x2 nnn), fun s nnn k hsp => ?_,
    fun s nnn hsp => exec_call_of_full nnn hsp⟩
  have hroom : s.sp.val < 32 := hsp ▸ k.isLt
  refine ⟨_, exec_call_of_lt nnn hroom, addrWord_toNat nnn, congrArg (· + 1) hsp, fun j => ?_, rfl⟩
  have hentry : s.sp.val = j.val ↔ j = k := by rw [hsp, Fin.ext_iff, eq_comm]
  simp [Vector.getElem_set, hentry, State.npc]

/-- Settles O27: the call left its return address in the entry it found free, and that entry is the one popped. -/
theorem returnComesBackAfterTheCall : Obligations.ReturnComesBackAfterTheCall := by
  unfold Obligations.ReturnComesBackAfterTheCall
  intro s t r nnn hroom hcall hstack hsp
  obtain ⟨_, hpush, _⟩ := callPushesTheReturnAddressAndJumps
  obtain ⟨_, hpop, _⟩ := returnPopsTheStackIntoPc
  obtain ⟨t', ht', _, htsp, htop, _⟩ := hpush s nnn ⟨s.sp.val, hroom⟩ rfl
  obtain rfl : t' = t := by simpa using ht'.symm.trans hcall
  obtain ⟨u, hret, hpc, husp, _⟩ := hpop r ⟨s.sp.val, hroom⟩ (by rw [hsp, htsp])
  exact ⟨u, hret, by rw [hpc, hstack, htop, if_pos rfl], Fin.ext husp⟩

/-! ## Jumps (R71, R77) -/

/-- Settles O25: `pc` is the address field, with zeros above it. -/
theorem jumpSetsPcToTheAddress : Obligations.JumpSetsPcToTheAddress := by
  unfold Obligations.JumpSetsPcToTheAddress
  exact fun s nnn => ⟨encodedAs_of_toNat (encodeA_toNat 0x1 nnn), _, rfl, addrWord_toNat nnn, rfl⟩

/-- The largest address and the largest byte together stay below 2^16. -/
theorem addrWord_add_byteWord_toNat (nnn : Addr) (b : Byte) :
    (addrWord nnn + byteWord b).toNat = nnn.toNat + b.toNat := by
  have := nnn.isLt
  have := b.isLt
  rw [BitVec.toNat_add, addrWord_toNat, byteWord_toNat]
  omega

theorem State.offsetReg_eq (s : State) (nnn : Addr) :
    s.offsetReg nnn = if s.cfg.offJumpLegacy then 0x0 else BitVec.ofNat 4 (nnn.toNat / 256) := by
  rw [State.offsetReg, addr_high_nibble]

/-- Settles O30: the sum of address and register does not wrap. -/
theorem jumpOffsetAddsTheSelectedRegister : Obligations.JumpOffsetAddsTheSelectedRegister := by
  unfold Obligations.JumpOffsetAddsTheSelectedRegister
  intro s nnn
  refine ⟨encodedAs_of_toNat (encodeA_toNat 0xB nnn), _, rfl, ?_, rfl⟩
  rw [State.jumpTo_pc, addrWord_add_byteWord_toNat, State.offsetReg_eq]

/-! ## Skips (R73 to R76) -/

/-- R66, with both targets counted from `pc`. -/
theorem State.skipIf_pc_eq (s : State) (c : Bool) : (s.skipIf c).pc = if c then s.pc + 4 else s.pc + 2 := by
  cases c with
  | true => simp [State.npc, BitVec.add_assoc]
  | false => rfl

theorem State.skipIf_beq_pc {w : Nat} (s : State) (a b : BitVec w) :
    (s.skipIf (a == b)).pc = if a = b then s.pc + 4 else s.pc + 2 := by
  simp only [State.skipIf_pc_eq, beq_iff_eq]

theorem State.skipIf_bne_pc {w : Nat} (s : State) (a b : BitVec w) :
    (s.skipIf (a != b)).pc = if a = b then s.pc + 2 else s.pc + 4 := by
  simp only [State.skipIf_pc_eq, bne_iff_ne, ne_eq, ite_not]

/-- Settles O28: both skips compare `V[x]` with the immediate. -/
theorem immediateSkipsCompareTheRegister : Obligations.ImmediateSkipsCompareTheRegister := by
  unfold Obligations.ImmediateSkipsCompareTheRegister
  intro s x nn
  exact ⟨encodedAs_of_toNat (encodeXI_toNat 0x3 x nn), encodedAs_of_toNat (encodeXI_toNat 0x4 x nn),
    ⟨_, rfl, s.skipIf_beq_pc _ _, rfl⟩, ⟨_, rfl, s.skipIf_bne_pc _ _, rfl⟩⟩

/-- Settles O29: both skips compare `V[x]` with `V[y]`. -/
theorem registerSkipsCompareTwoRegisters : Obligations.RegisterSkipsCompareTwoRegisters := by
  unfold Obligations.RegisterSkipsCompareTwoRegisters
  intro s x y
  exact ⟨encodedAs_of_toNat (encodeXY_toNat 0x5 x y 0x0), encodedAs_of_toNat (encodeXY_toNat 0x9 x y 0x0),
    ⟨_, rfl, s.skipIf_beq_pc _ _, rfl⟩, ⟨_, rfl, s.skipIf_bne_pc _ _, rfl⟩⟩

end Sys2Proof.Machine
end

section
/-!
SUPPORT and PROOFS for spec/41_load_and_alu.md: what a register holds after one result is written (R10) and after
a result and its flag are (R93), what the flags and the results are as numbers (R86 to R92), and the instructions.
-/

namespace Sys2Proof.Machine

/-! ## Words of the family `8XYn` (R62) -/

/-- The number of the word, with the operands last as the statements write it. -/
theorem encodeXY_alu_toNat (x y n : Nibble) :
    (encodeXY 0x8 x y n).toNat = 0x8000 + n.toNat + x.toNat * 256 + y.toNat * 16 := by
  rw [encodeXY_toNat, show (0x8 : Nibble).toNat = 8 from rfl]
  omega

/-! ## One result (R10) -/

theorem State.reg_setReg_advance_same (s : State) (x : Nibble) (b : Byte) : (s.setReg x b).advance.reg x = b :=
  (s.reg_setReg x b x).trans (if_pos rfl)

theorem State.reg_setReg_advance_other (s : State) (x : Nibble) (b : Byte) (r : Nibble) (hx : r ≠ x) :
    (s.setReg x b).advance.reg r = s.reg r :=
  (s.reg_setReg x b r).trans (if_neg hx)

/-! ## A result and its flag (R93) -/

/-- VF holds the flag also where it is the destination. -/
theorem State.reg_setResult_advance_flag (s : State) (x : Nibble) (b : Byte) (f : Bool) :
    (s.setResult x b f).advance.reg 0xF = flagByte f :=
  (s.reg_setResult x b f vf).trans (if_pos rfl)

theorem State.reg_setResult_advance_dest (s : State) {x : Nibble} (b : Byte) (f : Bool) (hx : x ≠ 0xF) :
    (s.setResult x b f).advance.reg x = b :=
  (s.reg_setResult x b f x).trans ((if_neg hx).trans (if_pos rfl))

theorem State.reg_setResult_advance_other (s : State) (x : Nibble) (b : Byte) (f : Bool) (r : Nibble) (hx : r ≠ x)
    (hf : r ≠ 0xF) : (s.setResult x b f).advance.reg r = s.reg r :=
  (s.reg_setResult x b f r).trans ((if_neg hf).trans (if_neg hx))

/-! ## Flags and results as numbers (R86 to R92) -/

theorem flagByte_carry (a b : Byte) : flagByte (carry a b) = if 256 ≤ a.toNat + b.toNat then 0x01 else 0x00 := by
  simp only [flagByte_eq, carry, decide_eq_true_eq]

theorem flagByte_noBorrow (a b : Byte) : flagByte (noBorrow a b) = if b.toNat ≤ a.toNat then 0x01 else 0x00 := by
  simp only [flagByte_eq, noBorrow, decide_eq_true_eq]

/-- The modulus is added on the left, where the subtraction of numbers loses nothing. -/
theorem byte_sub_toNat (a b : Byte) : (a - b).toNat = (a.toNat + 256 - b.toNat) % 256 := by
  have := b.isLt
  rw [BitVec.toNat_sub]
  omega

theorem flagByte_shiftedOutRight_toNat (b : Byte) : (flagByte (shiftedOutRight b)).toNat = b.toNat % 2 := by
  rw [flagByte_toNat, shiftedOutRight, BitVec.getLsbD, Nat.toNat_testBit, Nat.pow_zero, Nat.div_one]

/-- Bit 7 is the whole quotient by 128, as a byte has no bit above it. -/
theorem flagByte_shiftedOutLeft_toNat (b : Byte) : (flagByte (shiftedOutLeft b)).toNat = b.toNat / 128 := by
  have := b.isLt
  rw [flagByte_toNat, shiftedOutLeft, BitVec.getLsbD, Nat.toNat_testBit]
  omega

theorem byte_shiftRight_one_toNat (b : Byte) : (b >>> 1).toNat = b.toNat / 2 := by
  rw [BitVec.toNat_ushiftRight, Nat.shiftRight_eq_div_pow, Nat.pow_one]

theorem byte_shiftLeft_one_toNat (b : Byte) : (b <<< 1).toNat = b.toNat * 2 % 256 := by
  rw [BitVec.toNat_shiftLeft, Nat.shiftLeft_eq, Nat.pow_one]

/-! ## Arithmetic with a flag (R86 to R90) -/

/-- Settles O34: the operands are read before the result is written, and the flag is written last. -/
theorem addWritesSumAndCarry : Obligations.AddWritesSumAndCarry := by
  unfold Obligations.AddWritesSumAndCarry
  intro s x y
  exact ⟨encodedAs_of_toNat (encodeXY_alu_toNat x y 0x4), _, rfl,
    (s.reg_setResult_advance_flag x _ _).trans (flagByte_carry _ _),
    fun hx => by rw [s.reg_setResult_advance_dest _ _ hx, BitVec.toNat_add],
    s.reg_setResult_advance_other x _ _, rfl⟩

/-- What both subtractions do: an instruction that writes `a - b` to `V[x]` and the inverse borrow to VF. -/
theorem exec_writes_difference {i : Instr} {s : State} {x : Nibble} {a b : Byte}
    (h : exec i s = .next (s.setResult x (a - b) (noBorrow a b)).advance) :
    ∃ t, exec i s = .next t ∧ t.reg 0xF = (if b.toNat ≤ a.toNat then 0x01 else 0x00) ∧
      (x ≠ 0xF → (t.reg x).toNat = (a.toNat + 256 - b.toNat) % 256) ∧
      (∀ r, r ≠ x → r ≠ 0xF → t.reg r = s.reg r) ∧ t = { s with v := t.v, pc := s.pc + 2 } :=
  ⟨_, h, (s.reg_setResult_advance_flag x _ _).trans (flagByte_noBorrow a b),
    fun hx => by rw [s.reg_setResult_advance_dest _ _ hx, byte_sub_toNat],
    s.reg_setResult_advance_other x _ _, rfl⟩

/-- Settles O35: `8XY7` is `8XY5` with the operands exchanged. -/
theorem subtractionsWriteDifferenceAndNoBorrow : Obligations.SubtractionsWriteDifferenceAndNoBorrow := by
  unfold Obligations.SubtractionsWriteDifferenceAndNoBorrow
  intro s x y
  exact ⟨encodedAs_of_toNat (encodeXY_alu_toNat x y 0x5), encodedAs_of_toNat (encodeXY_alu_toNat x y 0x7),
    exec_writes_difference rfl, exec_writes_difference rfl⟩

/-- Settles O36: `b` is the model's source register, whichever the parameter selects. -/
theorem shiftsWriteResultAndShiftedOutBit : Obligations.ShiftsWriteResultAndShiftedOutBit := by
  unfold Obligations.ShiftsWriteResultAndShiftedOutBit
  intro s x y b hb
  obtain rfl : b = s.shiftSource x y := hb
  exact ⟨encodedAs_of_toNat (encodeXY_alu_toNat x y 0x6), encodedAs_of_toNat (encodeXY_alu_toNat x y 0xE),
    ⟨_, rfl, by rw [s.reg_setResult_advance_flag, flagByte_shiftedOutRight_toNat],
      fun hx => by rw [s.reg_setResult_advance_dest _ _ hx, byte_shiftRight_one_toNat],
      s.reg_setResult_advance_other x _ _, rfl⟩,
    ⟨_, rfl, by rw [s.reg_setResult_advance_flag, flagByte_shiftedOutLeft_toNat],
      fun hx => by rw [s.reg_setResult_advance_dest _ _ hx, byte_shiftLeft_one_toNat],
      s.reg_setResult_advance_other x _ _, rfl⟩⟩

/-! ## Results without a flag (R80 to R85, R91) -/

/-- Settles O31: both write one result and no flag. -/
theorem immediateLoadAndAddWriteTheirRegister : Obligations.ImmediateLoadAndAddWriteTheirRegister := by
  unfold Obligations.ImmediateLoadAndAddWriteTheirRegister
  intro s x nn
  exact ⟨encodedAs_of_toNat (encodeXI_toNat 0x6 x nn), encodedAs_of_toNat (encodeXI_toNat 0x7 x nn),
    ⟨_, rfl, s.reg_setReg x nn, rfl⟩,
    ⟨_, rfl, by rw [s.reg_setReg_advance_same, BitVec.toNat_add], s.reg_setReg_advance_other x _, rfl⟩⟩

/-- Settles O32: the result is the value `V[y]` had before. -/
theorem moveCopiesTheRegister : Obligations.MoveCopiesTheRegister := by
  unfold Obligations.MoveCopiesTheRegister
  intro s x y
  exact ⟨encodedAs_of_toNat (encodeXY_alu_toNat x y 0x0), _, rfl, s.reg_setReg x (s.reg y), rfl⟩

/-- Settles O33: the three differ in the operation on bits alone. -/
theorem logicInstructionsWorkBitByBit : Obligations.LogicInstructionsWorkBitByBit := by
  unfold Obligations.LogicInstructionsWorkBitByBit
  intro s x y
  exact ⟨encodedAs_of_toNat (encodeXY_alu_toNat x y 0x1), encodedAs_of_toNat (encodeXY_alu_toNat x y 0x2),
    encodedAs_of_toNat (encodeXY_alu_toNat x y 0x3),
    ⟨_, rfl, fun _ => by rw [s.reg_setReg_advance_same, BitVec.getLsbD_or], s.reg_setReg_advance_other x _, rfl⟩,
    ⟨_, rfl, fun _ => by rw [s.reg_setReg_advance_same, BitVec.getLsbD_and], s.reg_setReg_advance_other x _, rfl⟩,
    ⟨_, rfl, fun _ => by rw [s.reg_setReg_advance_same, BitVec.getLsbD_xor], s.reg_setReg_advance_other x _, rfl⟩⟩

/-- Settles O37: the random byte is an input, so the statement holds of every byte. -/
theorem randomWritesTheMaskedInputByte : Obligations.RandomWritesTheMaskedInputByte := by
  unfold Obligations.RandomWritesTheMaskedInputByte
  intro s x nn
  exact ⟨encodedAs_of_toNat (encodeXI_toNat 0xC x nn), _, rfl,
    fun _ => by rw [s.reg_setReg_advance_same, BitVec.getLsbD_and], s.reg_setReg_advance_other x _, rfl⟩

end Sys2Proof.Machine
end

section
/-!
SUPPORT and PROOFS for spec/42_index_and_memory.md. First the words of the family `FXnn`. Then the three instructions
that compute an address (R95 to R97), and the check before a block access with what it lets through: the digits of a
byte (R98) and the register block stored, loaded, and brought back (R99, R100).
-/

namespace Sys2Proof.Machine

/-! ## Words of the family `FXnn` (R62) -/

/-- The number of the word, with the operand last as the statements write it. -/
theorem encodeXI_misc_toNat (x : Nibble) (nn : Byte) :
    (encodeXI 0xF x nn).toNat = 0xF000 + nn.toNat + x.toNat * 256 := by
  rw [encodeXI_toNat, show (0xF : Nibble).toNat = 15 from rfl]
  omega

/-! ## Addresses (R95 to R97) -/

/-- Settles O39: the address field is zero-extended into `I`. -/
theorem loadIndexSetsTheAddress : Obligations.LoadIndexSetsTheAddress := by
  unfold Obligations.LoadIndexSetsTheAddress
  exact fun s nnn => ⟨encodedAs_of_toNat (encodeA_toNat 0xA nnn), _, rfl, addrWord_toNat nnn, rfl⟩

theorem flagByte_indexOverflow (i : Word) (b : Byte) :
    flagByte (indexOverflow i b) = if 4096 ≤ i.toNat + b.toNat then 0x01 else 0x00 := by
  simp only [flagByte_eq, indexOverflow, decide_eq_true_eq]

/-- In carry mode the flag is the overflow of the old `I` and the old `V[x]` (R96). -/
theorem exec_addIndex_of_carry {s : State} (x : Nibble) (h : s.cfg.indexAddCarry = true) :
    exec (.addIndex x) s =
      .next ((s.setIndex (s.indexPlus (s.reg x).toNat)).setFlag (indexOverflow s.index (s.reg x))).advance := by
  change execAddIndex x s = _
  simp only [execAddIndex, h, if_true]

theorem exec_addIndex_of_not_carry {s : State} (x : Nibble) (h : s.cfg.indexAddCarry = false) :
    exec (.addIndex x) s = .next (s.setIndex (s.indexPlus (s.reg x).toNat)).advance := by
  change execAddIndex x s = _
  simp only [execAddIndex, h, Bool.false_eq_true, if_false]

/-- Settles O40: both modes write the same `I`; the carry mode writes the flag besides. -/
theorem addIndexWrapsAndReportsOverflowInCarryMode : Obligations.AddIndexWrapsAndReportsOverflowInCarryMode := by
  unfold Obligations.AddIndexWrapsAndReportsOverflowInCarryMode
  intro s x
  refine ⟨encodedAs_of_toNat (encodeXI_misc_toNat x 0x1E), ?_⟩
  cases hmode : s.cfg.indexAddCarry with
  | true =>
    refine ⟨_, exec_addIndex_of_carry x hmode, s.indexPlus_toNat _, fun r => ?_, rfl⟩
    simp only [State.reg_advance, State.reg_setFlag, State.reg_setIndex, flagByte_indexOverflow, vf, true_and]
  | false =>
    refine ⟨_, exec_addIndex_of_not_carry x hmode, s.indexPlus_toNat _, fun r => ?_, rfl⟩
    simp only [State.reg_advance, State.reg_setIndex, Bool.false_eq_true, false_and, if_false]

/-- The address of a digit's glyph does not wrap (R5, R97). -/
theorem State.glyphAddr_toNat {s : State} {d : Byte} (hfont : s.cfg.fontStart.toNat ≤ 0x0FB0)
    (hd : d.toNat ≤ 0x0F) : (s.glyphAddr d).toNat = s.cfg.fontStart.toNat + 5 * d.toNat := by
  simp only [State.glyphAddr, BitVec.toNat_add, BitVec.toNat_mul, byteWord_toNat, show (5 : Word).toNat = 5 from rfl]
  omega

theorem exec_fontAddr_of_digit {s : State} {x : Nibble} (h : (s.reg x).toNat ≤ 0x0F) :
    exec (.fontAddr x) s = .next (s.setIndex (s.glyphAddr (s.reg x))).advance := by
  change execFontAddr x s = _
  rw [execFontAddr, isDigit, decide_eq_true h, State.guard_true]

theorem exec_fontAddr_of_not_digit {s : State} {x : Nibble} (h : 0x0F < (s.reg x).toNat) :
    exec (.fontAddr x) s = .next (s.raise .digitRange (byteWord (s.reg x))) := by
  change execFontAddr x s = _
  rw [execFontAddr, isDigit, decide_eq_false (Nat.not_le_of_lt h), State.guard_false]

/-- Settles O41: the digit check separates the two clauses. -/
theorem fontAddrPointsAtTheGlyphOfADigit : Obligations.FontAddrPointsAtTheGlyphOfADigit := by
  unfold Obligations.FontAddrPointsAtTheGlyphOfADigit
  intro s x
  exact ⟨encodedAs_of_toNat (encodeXI_misc_toNat x 0x29),
    fun hfont hdigit => ⟨_, exec_fontAddr_of_digit hdigit, State.glyphAddr_toNat hfont hdigit, rfl⟩,
    exec_fontAddr_of_not_digit⟩

/-! ## The check before a block access (R101, R135) -/

/-- An access whose last byte is `I + n`, inside memory, has its effect. -/
theorem State.guardBlock_of_inside {s : State} {n : Nat} (h : s.index.toNat + n ≤ 0x0FFF) (t : State) :
    s.guardBlock (n + 1) t = t := by
  rw [State.guardBlock, (s.blockFits_iff n.succ_pos).mpr h, State.guard_true]

/-- An access whose last byte `I + n` lies past the end of memory faults. -/
theorem State.guardBlock_of_outside {s : State} {n : Nat} (h : 0x0FFF < s.index.toNat + n) (t : State) :
    s.guardBlock (n + 1) t = s.raise .memRange 0x1000 := by
  rw [State.guardBlock, (s.blockFits_eq_false n.succ_pos).mpr h, State.guard_false]

/-! ## Decimal digits (R98) -/

/-- A block of three bytes stored inside memory, address by address. -/
theorem Memory.read_writeBlock_three {m : Memory} (h : Memory.wf m = true) {a : Nat} (ha : a ≤ 0x0FFD)
    (b₀ b₁ b₂ : Byte) (a' : Nat) :
    Memory.read (Memory.writeBlock m a [b₀, b₁, b₂]) a' =
      if a' = a then b₀ else if a' = a + 1 then b₁ else if a' = a + 2 then b₂ else Memory.read m a' := by
  have hin : a + [b₀, b₁, b₂].length ≤ memSize := Nat.add_le_add_right ha 3
  split_ifs with h₀ h₁ h₂
  · exact h₀ ▸ Memory.read_writeBlock_inside h hin (k := 0) (by simp)
  · exact h₁ ▸ Memory.read_writeBlock_inside h hin (k := 1) (by simp)
  · exact h₂ ▸ Memory.read_writeBlock_inside h hin (k := 2) (by simp)
  · refine Memory.read_writeBlock_outside h hin ?_
    simp only [List.length_cons, List.length_nil]
    omega

/-- A number no larger than some byte is the number of its own byte. -/
theorem byte_ofNat_toNat_of_le {b : Byte} {n : Nat} (h : n ≤ b.toNat) : (BitVec.ofNat 8 n).toNat = n :=
  (BitVec.toNat_ofNat n 8).trans (Nat.mod_eq_of_lt (h.trans_lt b.isLt))

/-- The digits of `b`, stored inside memory, as numbers. -/
theorem Memory.read_writeBlock_decimalDigits_toNat {m : Memory} (h : Memory.wf m = true) {a : Nat}
    (ha : a ≤ 0x0FFD) (b : Byte) (a' : Nat) :
    (Memory.read (Memory.writeBlock m a (decimalDigits b)) a').toNat =
      if a' = a then b.toNat / 100 else if a' = a + 1 then b.toNat / 10 % 10
      else if a' = a + 2 then b.toNat % 10 else (Memory.read m a').toNat := by
  have htens : b.toNat / 10 % 10 ≤ b.toNat := (Nat.mod_le _ _).trans (Nat.div_le_self _ _)
  rw [decimalDigits, Memory.read_writeBlock_three h ha]
  simp only [apply_ite BitVec.toNat, byte_ofNat_toNat_of_le (Nat.div_le_self _ _), byte_ofNat_toNat_of_le htens,
    byte_ofNat_toNat_of_le (Nat.mod_le _ _)]

theorem exec_bcd_of_inside {s : State} (x : Nibble) (h : s.index.toNat ≤ 0x0FFD) :
    exec (.bcd x) s = .next (s.storeBlock (decimalDigits (s.reg x))).advance :=
  congrArg Host.Outcome.next (State.guardBlock_of_inside (n := 2) (by omega) _)

theorem exec_bcd_of_outside {s : State} (x : Nibble) (h : 0x0FFD < s.index.toNat) :
    exec (.bcd x) s = .next (s.raise .memRange 0x1000) :=
  congrArg Host.Outcome.next (State.guardBlock_of_outside (n := 2) (by omega) _)

/-- Settles O42: three bytes stored at `I` where they fit, the fault where they do not. -/
theorem bcdStoresThreeDecimalDigits : Obligations.BcdStoresThreeDecimalDigits := by
  unfold Obligations.BcdStoresThreeDecimalDigits
  intro s x
  exact ⟨encodedAs_of_toNat (encodeXI_misc_toNat x 0x33),
    fun hmem hin => ⟨_, exec_bcd_of_inside x hin, Memory.read_writeBlock_decimalDigits_toNat hmem hin (s.reg x), rfl⟩,
    exec_bcd_of_outside x⟩

/-! ## The register block (R99, R100) -/

/-- `I` after the transfer of registers 0 to `n`. -/
theorem State.afterBlock_index_toNat (s : State) (n : Nat) :
    (s.afterBlock (n + 1)).index.toNat =
      if s.cfg.regSaveLegacy then (s.index.toNat + n + 1) % 4096 else s.index.toNat := by
  rw [State.afterBlock_index, apply_ite BitVec.toNat, State.indexPlus_toNat, Nat.add_assoc]

theorem exec_saveRegs_of_inside {s : State} {x : Nibble} (h : s.index.toNat + x.toNat ≤ 0x0FFF) :
    exec (.saveRegs x) s = .next ((s.storeBlock (s.regsTo x)).afterBlock (x.toNat + 1)).advance :=
  congrArg Host.Outcome.next (State.guardBlock_of_inside h _)

theorem exec_saveRegs_of_outside {s : State} {x : Nibble} (h : 0x0FFF < s.index.toNat + x.toNat) :
    exec (.saveRegs x) s = .next (s.raise .memRange 0x1000) :=
  congrArg Host.Outcome.next (State.guardBlock_of_outside h _)

theorem exec_loadRegs_of_inside {s : State} {x : Nibble} (h : s.index.toNat + x.toNat ≤ 0x0FFF) :
    exec (.loadRegs x) s =
      .next ((s.setRegsFrom 0 (s.loadBlock (x.toNat + 1))).afterBlock (x.toNat + 1)).advance :=
  congrArg Host.Outcome.next (State.guardBlock_of_inside h _)

theorem exec_loadRegs_of_outside {s : State} {x : Nibble} (h : 0x0FFF < s.index.toNat + x.toNat) :
    exec (.loadRegs x) s = .next (s.raise .memRange 0x1000) :=
  congrArg Host.Outcome.next (State.guardBlock_of_outside h _)

/-- `FX55` writes no byte outside `I` to `I + x` (R99). -/
theorem saveRegs_read_outside {s t : State} {x : Nibble} (hmem : Memory.wf s.mem = true)
    (hin : s.index.toNat + x.toNat ≤ 0x0FFF) (h : exec (.saveRegs x) s = .next t) {a : Nat}
    (ha : a < s.index.toNat ∨ s.index.toNat + x.toNat < a) : Memory.read t.mem a = Memory.read s.mem a := by
  have hlen := s.regsTo_length x
  rw [saveRegs_mem hin h, Memory.read_writeBlock_outside hmem (by simp only [memSize]; omega) (by omega)]

/-- Settles O43: the block is stored at `I` where it fits, the fault is raised where it does not. -/
theorem saveRegsStoresTheRegisterBlock : Obligations.SaveRegsStoresTheRegisterBlock := by
  unfold Obligations.SaveRegsStoresTheRegisterBlock
  intro s x
  refine ⟨encodedAs_of_toNat (encodeXI_misc_toNat x 0x55), fun hmem hin => ?_, exec_saveRegs_of_outside⟩
  have hexec := exec_saveRegs_of_inside hin
  refine ⟨_, hexec, fun r => saveRegs_read hmem hin hexec, fun a => saveRegs_read_outside hmem hin hexec,
    (s.storeBlock _).afterBlock_index_toNat _, ?_⟩
  rw [State.afterBlock_eq]
  rfl

/-- The registers after the bytes at `I` went to `V[0]` to `V[x]`. -/
theorem State.reg_setRegsFrom_loadBlock (s : State) (x r : Nibble) :
    (s.setRegsFrom 0 (s.loadBlock (x.toNat + 1))).reg r =
      if r.toNat ≤ x.toNat then Memory.read s.mem (s.index.toNat + r.toNat) else s.reg r := by
  have hlen : 0 + (s.loadBlock (x.toNat + 1)).length ≤ 16 := by
    rw [State.loadBlock, Memory.readBlock_length, Nat.zero_add]
    exact x.isLt
  rw [State.reg_setRegsFrom _ _ _ hlen, if_pos (Nat.zero_le _), State.loadBlock, Memory.readBlock_getElem?]
  simp only [Nat.sub_zero, Nat.lt_succ_iff, State.ea_eq, Nat.add_zero]
  split <;> rfl

/-- Settles O44: the block is loaded from `I` where it fits, the fault is raised where it does not. -/
theorem loadRegsLoadsTheRegisterBlock : Obligations.LoadRegsLoadsTheRegisterBlock := by
  unfold Obligations.LoadRegsLoadsTheRegisterBlock
  intro s x
  refine ⟨encodedAs_of_toNat (encodeXI_misc_toNat x 0x65), fun hin => ?_, exec_loadRegs_of_outside⟩
  refine ⟨_, exec_loadRegs_of_inside hin, fun r => ?_, ?_, ?_⟩
  · rw [State.reg_advance, State.reg_afterBlock, State.reg_setRegsFrom_loadBlock]
  · rw [State.advance_index, State.afterBlock_index_toNat, State.setRegsFrom_cfg, State.setRegsFrom_index]
  · rw [State.afterBlock_eq, State.setRegsFrom_eq]
    rfl

/-- Settles O45: without the legacy option `I` stays, so the load reads the addresses the save wrote. -/
theorem savedRegistersComeBackWhenLoaded : Obligations.SavedRegistersComeBackWhenLoaded := by
  unfold Obligations.SavedRegistersComeBackWhenLoaded
  intro s t u x w hmem hleg hin hsave hload r hr
  have hindex : t.index = s.index :=
    (exec_confined hsave).keeps State.index (fun _ _ => rfl) (by simp [footprint, hleg])
  obtain ⟨_, hinside, _⟩ := loadRegsLoadsTheRegisterBlock { t with v := w } x
  obtain ⟨u', hu', hreg, _⟩ := hinside (hindex ▸ hin)
  obtain rfl : u' = u := by simpa using hu'.symm.trans hload
  calc u'.reg r = Memory.read t.mem (t.index.toNat + r.toNat) := (hreg r).trans (if_pos hr)
    _ = s.reg r := by rw [hindex, saveRegs_read hmem hin hsave hr]

end Sys2Proof.Machine
end

section
/-!
SUPPORT and PROOFS for spec/43_display.md. First the clear (R105). Then the relation between the buffer and the
collision before and after some pixels are inverted, and how it composes; a sprite pixel by pixel, row by row and as
a whole (R109); and the draw (R106).
-/

namespace Sys2Proof.Machine

/-! ## The clear (R105, R108) -/

/-- Settles O48: the cleared buffer has no lit pixel. -/
theorem clearDisplayDarkensEveryPixel : Obligations.ClearDisplayDarkensEveryPixel := by
  unfold Obligations.ClearDisplayDarkensEveryPixel
  exact ⟨encodedAs_of_toNat rfl, fun s => ⟨_, rfl, Frame.pixel_cleared, rfl⟩⟩

/-! ## Inverting a set of pixels (R109) -/

/-- `acc'` is `acc` with the pixels of `P` inverted: a collision is added iff a pixel that was lit is dark. -/
structure Inverts (P : Nat → Nat → Bool) (acc acc' : Frame × Bool) : Prop where
  pixel : ∀ row col, row < 32 → col < 64 →
    Frame.pixel acc'.1 row col = (Frame.pixel acc.1 row col ^^ P row col)
  collided : acc'.2 = true ↔ acc.2 = true ∨ ∃ row col, row < 32 ∧ col < 64 ∧
    Frame.pixel acc.1 row col = true ∧ Frame.pixel acc'.1 row col = false

theorem Inverts.refl {P : Nat → Nat → Bool} (hP : ∀ row col, row < 32 → col < 64 → P row col = false)
    (acc : Frame × Bool) : Inverts P acc acc where
  pixel row col hr hc := by rw [hP row col hr hc, Bool.xor_false]
  collided := by simp +contextual

/-- Two disjoint sets inverted one after the other are their union inverted: no pixel is inverted twice, so one
that went dark on the way stays dark. -/
theorem Inverts.trans {P Q R : Nat → Nat → Bool} {a b c : Frame × Bool} (hab : Inverts P a b) (hbc : Inverts Q b c)
    (hdisj : ∀ row col, row < 32 → col < 64 → P row col = true → Q row col = false)
    (hR : ∀ row col, row < 32 → col < 64 → R row col = (P row col || Q row col)) : Inverts R a c where
  pixel row col hr hc := by
    rw [hbc.pixel row col hr hc, hab.pixel row col hr hc, hR row col hr hc, Bool.xor_assoc]
    cases hP : P row col with
    | false => rw [Bool.false_xor, Bool.false_or]
    | true => rw [hdisj row col hr hc hP, Bool.xor_false, Bool.or_false]
  collided := by
    rw [hbc.collided, hab.collided, or_assoc]
    simp only [← exists_or, ← and_or_left]
    refine or_congr_right (exists₂_congr fun row col => and_congr_right fun hr => and_congr_right fun hc => ?_)
    rw [hbc.pixel row col hr hc, hab.pixel row col hr hc]
    have hd := hdisj row col hr hc
    revert hd
    cases Frame.pixel a.1 row col <;> cases P row col <;> cases Q row col <;> decide

/-- Inverting the same pixels twice restores the buffer. -/
theorem Inverts.twice {P : Nat → Nat → Bool} {fb fb' fb'' : Frame} {f f' g g' : Bool}
    (h : Inverts P (fb, f) (fb', f')) (h' : Inverts P (fb', g) (fb'', g')) : fb'' = fb :=
  Frame.ext_pixel fun row hr col hc => by
    rw [h'.pixel row col hr hc, h.pixel row col hr hc, Bool.xor_assoc, Bool.xor_self, Bool.xor_false]

/-- On a dark buffer nothing collides. -/
theorem Inverts.collided_of_dark {P : Nat → Nat → Bool} {fb fb' : Frame} {f : Bool}
    (h : Inverts P (fb, false) (fb', f)) (hdark : ∀ row col, Frame.pixel fb row col = false) : f = false := by
  simpa [hdark] using h.collided

/-- What goes back to a dark buffer collides iff the buffer was not dark. -/
theorem Inverts.collided_to_dark {P : Nat → Nat → Bool} {fb fb' : Frame} {f : Bool}
    (h : Inverts P (fb', false) (fb, f)) (hdark : ∀ row col, Frame.pixel fb row col = false) :
    f = true ↔ fb' ≠ fb := by
  rw [h.collided, or_iff_right Bool.false_ne_true]
  constructor
  · rintro ⟨row, col, -, -, hlit, -⟩ rfl
    exact absurd hlit (by simp [hdark])
  · contrapose!
    intro hnone
    refine Frame.ext_pixel fun row hr col hc => ?_
    simpa [hdark] using hnone row col hr hc

/-! ## A sprite (R109) -/

/-- The row of a sprite drawn at row `y` that lands on buffer row `row`. -/
def spriteRow (y row : Nat) : Nat := (row + 256 - y) % 32

/-- The column of a sprite drawn at column `x` that lands on buffer column `col`. -/
def spriteCol (x col : Nat) : Nat := (col + 256 - x) % 64

theorem spriteCovers_eq (mem : Memory) (i n x y row col : Nat) :
    spriteCovers mem i n x y row col = (decide (spriteRow y row < n) && decide (spriteCol x col < 8) &&
      (Memory.read mem (i + spriteRow y row)).getLsbD (7 - spriteCol x col)) := rfl

theorem eq_wrapped_iff_spriteRow {y r row : Nat} (hy : y < 256) (hr : r < 32) (hrow : row < 32) :
    row = (y + r) % 32 ↔ spriteRow y row = r := by
  unfold spriteRow
  omega

theorem eq_wrapped_iff_spriteCol {x c col : Nat} (hx : x < 256) (hc : c < 64) (hcol : col < 64) :
    col = (x + c) % 64 ↔ spriteCol x col = c := by
  unfold spriteCol
  omega

/-- The sprite pixel in row `r` and column `c` lands on this pixel of the buffer. -/
def landsOn (x y r c row col : Nat) : Bool := decide (spriteRow y row = r) && decide (spriteCol x col = c)

theorem landsOn_eq {x y r c row col : Nat} (hx : x < 256) (hy : y < 256) (hr : r < 32) (hc : c < 64)
    (hrow : row < 32) (hcol : col < 64) :
    landsOn x y r c row col = decide (row = (y + r) % 32 ∧ col = (x + c) % 64) := by
  simp only [landsOn, Bool.decide_and, eq_wrapped_iff_spriteRow hy hr hrow, eq_wrapped_iff_spriteCol hx hc hcol]

/-- A 1 bit inverts the one pixel it lands on, which goes dark iff it was lit. -/
theorem drawPixel_inverts {x y r c : Nat} (hx : x < 256) (hy : y < 256) (hr : r < 32) (hc : c < 64)
    (acc : Frame × Bool) : Inverts (landsOn x y r c) acc (drawPixel x y r c acc) where
  pixel row col hrow hcol := by
    rw [drawPixel_pixel, landsOn_eq hx hy hr hc hrow hcol, Bool.bne_eq_xor]
  collided := by
    have hrow : (y + r) % 32 < 32 := Nat.mod_lt _ (by decide)
    have hcol : (x + c) % 64 < 64 := Nat.mod_lt _ (by decide)
    simp only [drawPixel_collided, drawPixel_pixel, Bool.or_eq_true]
    refine or_congr_right ⟨fun hlit => ⟨_, _, hrow, hcol, hlit, by simp [hlit]⟩, ?_⟩
    rintro ⟨row, col, -, -, hlit, hdark⟩
    obtain ⟨rfl, rfl⟩ : row = (y + r) % 32 ∧ col = (x + c) % 64 := by simpa [hlit] using hdark
    exact hlit

/-- A bit of a sprite inverts the pixel it lands on if it is 1, and no pixel if it is 0. -/
theorem drawColumn_inverts {x y r c : Nat} (hx : x < 256) (hy : y < 256) (hr : r < 32) (hc : c < 64) (b : Byte)
    (acc : Frame × Bool) :
    Inverts (fun row col => landsOn x y r c row col && b.getLsbD (7 - c)) acc
      (if b.getLsbD (7 - c) then drawPixel x y r c acc else acc) := by
  cases b.getLsbD (7 - c) with
  | false => exact Inverts.refl (fun _ _ _ _ => Bool.and_false _) acc
  | true =>
    simp only [Bool.and_true, if_true]
    exact drawPixel_inverts hx hy hr hc acc

/-- The first `n` columns of sprite row `r`, whose byte is `b`, cover this pixel of the buffer. -/
def columnsCover (x y r n : Nat) (b : Byte) (row col : Nat) : Bool :=
  decide (spriteRow y row = r) && decide (spriteCol x col < n) && b.getLsbD (7 - spriteCol x col)

/-- No two columns of a row land on one pixel, as a row is no wider than the buffer. -/
theorem drawColumns_inverts {x y r n : Nat} (hx : x < 256) (hy : y < 256) (hr : r < 32) (hn : n ≤ 64) (b : Byte)
    (acc : Frame × Bool) :
    Inverts (columnsCover x y r n b) acc
      ((List.range n).foldl (fun acc c => if b.getLsbD (7 - c) then drawPixel x y r c acc else acc) acc) := by
  induction n with
  | zero => exact Inverts.refl (by simp [columnsCover]) acc
  | succ n ih =>
    rw [List.range_succ, List.foldl_append, List.foldl_cons, List.foldl_nil]
    refine (ih (by omega)).trans (drawColumn_inverts hx hy hr (by omega) b _) ?_ ?_
    · simp +contextual [columnsCover, landsOn, Nat.ne_of_lt]
    · intro row col _ _
      by_cases hcol : spriteCol x col = n
      · simp [columnsCover, landsOn, hcol]
      · have hlt : spriteCol x col < n + 1 ↔ spriteCol x col < n := by omega
        simp [columnsCover, landsOn, hcol, hlt]

/-- One row of a sprite inverts the pixels of its 1 bits. -/
theorem drawRow_inverts {x y r : Nat} (hx : x < 256) (hy : y < 256) (hr : r < 32) (b : Byte) (acc : Frame × Bool) :
    Inverts (columnsCover x y r 8 b) acc (drawRow x y r b acc) :=
  drawColumns_inverts hx hy hr (by decide) b acc

/-- The sprite rows from `r` up to `r'`, of a sprite at address `i`, cover this pixel of the buffer. -/
def rowsCover (mem : Memory) (i x y r r' row col : Nat) : Bool :=
  decide (r ≤ spriteRow y row) && spriteCovers mem i r' x y row col

/-- No two rows of a sprite land on one pixel, as a sprite is no higher than the buffer. -/
theorem drawRows_readBlock_inverts (mem : Memory) (i : Nat) {x y r n : Nat} (hx : x < 256) (hy : y < 256)
    (hn : r + n ≤ 32) (acc : Frame × Bool) :
    Inverts (rowsCover mem i x y r (r + n)) acc (drawRows x y r (Memory.readBlock mem (i + r) n) acc) := by
  induction n generalizing r acc with
  | zero =>
    refine Inverts.refl (fun row col _ _ => ?_) acc
    rcases Nat.lt_or_ge (spriteRow y row) r with hlt | hge
    · simp [rowsCover, Nat.not_le_of_lt hlt]
    · simp [rowsCover, spriteCovers_eq, Nat.not_lt_of_le hge]
  | succ n ih =>
    have htail := ih (r := r + 1) (by omega) (drawRow x y r (Memory.read mem (i + r)) acc)
    refine (drawRow_inverts hx hy (by omega) (Memory.read mem (i + r)) acc).trans htail ?_ ?_
    · simp +contextual [columnsCover, rowsCover]
    · intro row col _ _
      by_cases hrow : spriteRow y row = r
      · simp [columnsCover, rowsCover, spriteCovers_eq, hrow]
      · have hle : r ≤ spriteRow y row ↔ r + 1 ≤ spriteRow y row := by omega
        simp only [columnsCover, rowsCover, decide_eq_false hrow, hle, Bool.false_and, Bool.false_or,
          Nat.add_right_comm r 1 n, Nat.add_assoc]

theorem rowsCover_zero (mem : Memory) (i x y n : Nat) : rowsCover mem i x y 0 n = spriteCovers mem i n x y := by
  funext row col
  rw [rowsCover, decide_eq_true (Nat.zero_le _), Bool.true_and]

/-- A whole sprite inverts the pixels its 1 bits cover. -/
theorem drawSprite_inverts (fb : Frame) (x y : Byte) (mem : Memory) (i : Nat) {n : Nat} (hn : n ≤ 32) :
    Inverts (spriteCovers mem i n x.toNat y.toNat) (fb, false) (drawSprite fb x y (Memory.readBlock mem i n)) := by
  have h := drawRows_readBlock_inverts mem i (r := 0) (n := n) x.isLt y.isLt (by omega) (fb, false)
  rw [Nat.zero_add, rowsCover_zero] at h
  exact h

/-! ## The draw (R106) -/

theorem State.blockFits_iff_zero_or (s : State) (count : Nat) :
    s.blockFits count = true ↔ count = 0 ∨ s.index.toNat + (count - 1) ≤ 0x0FFF := by
  rw [State.blockFits, Bool.or_eq_true, decide_eq_true_eq, decide_eq_true_eq, State.ea_eq]

/-- The display surface's answer to the request of `DXYN`: the new buffer and the collision. -/
def State.drawAnswer (s : State) (x y n : Nibble) : Frame × Bool :=
  drawSprite s.fb (s.reg x) (s.reg y) (s.loadBlock n.toNat)

/-- A sprite that lies inside memory is drawn, and the collision goes to VF. -/
theorem exec_draw_of_inside {s : State} {n : Nibble} (x y : Nibble)
    (h : n.toNat = 0 ∨ s.index.toNat + (n.toNat - 1) ≤ 0x0FFF) :
    exec (.draw x y n) s =
      .next ({ s with fb := (s.drawAnswer x y n).1 }.setFlag (s.drawAnswer x y n).2).advance := by
  change execDraw x y n s = _
  rw [execDraw, State.guardBlock, (s.blockFits_iff_zero_or n.toNat).mpr h, State.guard_true]
  rfl

theorem exec_draw_of_outside {s : State} {n : Nibble} (x y : Nibble) (hpos : 0 < n.toNat)
    (h : 0x0FFF < s.index.toNat + (n.toNat - 1)) :
    exec (.draw x y n) s = .next (s.raise .memRange 0x1000) := by
  change execDraw x y n s = _
  rw [execDraw, State.guardBlock, (s.blockFits_eq_false hpos).mpr h, State.guard_false]

theorem State.drawAnswer_inverts (s : State) (x y n : Nibble) :
    Inverts (spriteCovers s.mem s.index.toNat n.toNat (s.reg x).toNat (s.reg y).toNat) (s.fb, false)
      (s.drawAnswer x y n) :=
  drawSprite_inverts s.fb (s.reg x) (s.reg y) s.mem s.index.toNat (n.isLt.le.trans (by decide))

theorem State.reg_setFlag_advance_flag (s : State) (f : Bool) : (s.setFlag f).advance.reg 0xF = flagByte f :=
  (s.reg_setFlag f vf).trans (if_pos rfl)

theorem State.reg_setFlag_advance_other (s : State) (f : Bool) (r : Nibble) (hr : r ≠ 0xF) :
    (s.setFlag f).advance.reg r = s.reg r :=
  (s.reg_setFlag f r).trans (if_neg hr)

/-- Everything a draw inside memory does: the covered pixels are inverted, VF holds the collision, and nothing but
VF, the buffer and `pc` changes. -/
theorem exec_draw_inverts {s t : State} {x y n : Nibble}
    (hin : n.toNat = 0 ∨ s.index.toNat + (n.toNat - 1) ≤ 0x0FFF) (h : exec (.draw x y n) s = .next t) :
    ∃ f, Inverts (spriteCovers s.mem s.index.toNat n.toNat (s.reg x).toNat (s.reg y).toNat) (s.fb, false) (t.fb, f) ∧
      t.reg 0xF = flagByte f ∧ (∀ r, r ≠ 0xF → t.reg r = s.reg r) ∧
      t = { s with v := t.v, fb := t.fb, pc := s.pc + 2 } := by
  obtain rfl := Host.Outcome.next.inj ((exec_draw_of_inside x y hin).symm.trans h)
  exact ⟨_, s.drawAnswer_inverts x y n, State.reg_setFlag_advance_flag _ _, State.reg_setFlag_advance_other _ _, rfl⟩

theorem flagByte_eq_zero_or_one (f : Bool) : flagByte f = 0x00 ∨ flagByte f = 0x01 := by
  cases f
  · exact .inl rfl
  · exact .inr rfl

theorem flagByte_eq_one_iff (f : Bool) : flagByte f = 0x01 ↔ f = true := by
  cases f <;> decide

/-- Settles O49: the collision of the answer is a pixel that was lit and went dark. -/
theorem drawXorsTheSpriteAndReportsCollision : Obligations.DrawXorsTheSpriteAndReportsCollision := by
  unfold Obligations.DrawXorsTheSpriteAndReportsCollision
  intro s x y n
  refine ⟨encodedAs_of_toNat (encodeXY_toNat 0xD x y n), fun hin => ?_, exec_draw_of_outside x y⟩
  have hexec := exec_draw_of_inside x y hin
  obtain ⟨f, hinv, hflag, hreg, hframe⟩ := exec_draw_inverts hin hexec
  refine ⟨_, hexec, hinv.pixel, ?_, ?_, hreg, hframe⟩
  · exact hflag ▸ flagByte_eq_zero_or_one f
  · rw [hflag, flagByte_eq_one_iff]
    exact hinv.collided.trans (or_iff_right Bool.false_ne_true)

/-- Settles O50: the second draw inverts the pixels the first one did, as the first leaves the operands alone. -/
theorem drawingTwiceRestoresTheDisplay : Obligations.DrawingTwiceRestoresTheDisplay := by
  unfold Obligations.DrawingTwiceRestoresTheDisplay
  intro s t u x y n hx hy hin hst htu
  obtain ⟨f, hfirst, hflag, hreg, hframe⟩ := exec_draw_inverts hin hst
  have hmem : t.mem = s.mem := by rw [hframe]
  have hindex : t.index = s.index := by rw [hframe]
  obtain ⟨g, hsecond, hflag', -, -⟩ := exec_draw_inverts (hindex ▸ hin) htu
  rw [hmem, hindex, hreg x hx, hreg y hy] at hsecond
  have hback : u.fb = s.fb := hfirst.twice hsecond
  refine ⟨hback, fun hdark => ⟨?_, ?_⟩⟩
  · rw [hflag, hfirst.collided_of_dark hdark]
    rfl
  · rw [hflag', flagByte_eq_one_iff]
    exact (hback ▸ hsecond).collided_to_dark hdark

end Sys2Proof.Machine
end

section
/-!
SUPPORT and PROOFS for spec/44_keypad_and_timers.md. First what a `Step` does while a key is awaited (R120, R121). Then
the instructions: the skips on a key and their check of its number (R113, R114, R136), the wait for a key (R115) and
the timers (R116 to R118).
-/

namespace Sys2Proof.Machine

/-! ## The polling step (R120, R121) -/

theorem cycle_of_waiting {s : State} (hvalid : s.fault.valid = false) (hwait : s.awaitingKey = true) :
    s.cycle = .next s.pollKey := by
  simp [State.cycle, hvalid, hwait]

/-- The converse of `lowestKey_eq_some`: the search finds the least key pressed. -/
theorem lowestKey_of_least {keys : Word} {k : Nat} (hk : k < 16) (hdown : keys.getLsbD k = true)
    (hleast : ∀ j, j < k → keys.getLsbD j = false) : lowestKey keys = some k := by
  rw [lowestKey, List.find?_range_eq_some]
  exact ⟨hdown, List.mem_range.mpr hk, fun j hj => by rw [hleast j hj, Bool.not_false]⟩

theorem State.pollKey_of_none {s : State} (h : lowestKey s.keys = none) : s.pollKey = s := by
  rw [State.pollKey, h]

theorem State.pollKey_of_some {s : State} {k : Nat} (h : lowestKey s.keys = some k) :
    s.pollKey = { s.setReg s.keyReg (BitVec.ofNat 8 k) with awaitingKey := false } := by
  rw [State.pollKey, h]

/-- Settles O10: the record is clear and a key is awaited, so the cycle polls, and what the search for the lowest key
finds separates the two clauses. -/
theorem pollingStepTakesTheLowestPressedKey : Obligations.PollingStepTakesTheLowestPressedKey := by
  unfold Obligations.PollingStepTakesTheLowestPressedKey
  intro s keys rnd he hphase hvalid hwait
  have hpoll : step s = .next (s.started keys rnd).pollKey :=
    (step_of_step he hphase).trans (cycle_of_waiting hvalid hwait)
  refine ⟨fun hnone => ?_, fun k hk hdown hleast => ?_⟩
  · rw [hpoll, State.pollKey_of_none (lowestKey_eq_none.mpr hnone)]
  · rw [hpoll, State.pollKey_of_some (lowestKey_of_least hk hdown hleast)]
    exact ⟨_, rfl, (s.started keys rnd).reg_setReg s.keyReg _, rfl⟩

/-! ## Skips on a key (R113, R114, R136) -/

/-- The number of the word, with the operand last as the statements write it. -/
theorem encodeXI_key_toNat (x : Nibble) (nn : Byte) :
    (encodeXI 0xE x nn).toNat = 0xE000 + nn.toNat + x.toNat * 256 :=
  (encodeXI_toNat 0xE x nn).trans (Nat.add_right_comm _ _ _)

theorem State.guard_of_digit {s : State} {d : Byte} (h : d.toNat ≤ 0x0F) (c : Cause) (w : Word) (t : State) :
    s.guard (isDigit d) c w t = t := by
  rw [isDigit, decide_eq_true h, State.guard_true]

theorem State.guard_of_not_digit {s : State} {d : Byte} (h : 0x0F < d.toNat) (c : Cause) (w : Word) (t : State) :
    s.guard (isDigit d) c w t = s.raise c w := by
  rw [isDigit, decide_eq_false (Nat.not_le_of_lt h), State.guard_false]

theorem State.skipIf_not_pc (s : State) (c : Bool) :
    (s.skipIf (!c)).pc = if c then s.pc + 2 else s.pc + 4 := by
  cases c with
  | true => exact s.skipIf_pc_eq false
  | false => exact s.skipIf_pc_eq true

/-- Settles O51: the check of the key number separates the two clauses, and behind it the two skips test opposite
conditions. -/
theorem keySkipsTestTheNumberedKey : Obligations.KeySkipsTestTheNumberedKey := by
  unfold Obligations.KeySkipsTestTheNumberedKey
  intro s x
  refine ⟨encodedAs_of_toNat (encodeXI_key_toNat x 0x9E), encodedAs_of_toNat (encodeXI_key_toNat x 0xA1),
    fun hkey => ⟨?_, ?_⟩, fun hbig => ⟨?_, ?_⟩⟩
  · exact ⟨_, congrArg Host.Outcome.next (State.guard_of_digit hkey _ _ _), s.skipIf_pc_eq _, rfl⟩
  · exact ⟨_, congrArg Host.Outcome.next (State.guard_of_digit hkey _ _ _), s.skipIf_not_pc _, rfl⟩
  · exact congrArg Host.Outcome.next (State.guard_of_not_digit hbig _ _ _)
  · exact congrArg Host.Outcome.next (State.guard_of_not_digit hbig _ _ _)

/-! ## The wait and the timers (R115 to R118) -/

/-- Settles O52: the answer is built from the state and `x` alone, so no key is looked at. -/
theorem waitKeyEntersTheWaitState : Obligations.WaitKeyEntersTheWaitState := by
  unfold Obligations.WaitKeyEntersTheWaitState
  exact fun s x => ⟨encodedAs_of_toNat (encodeXI_misc_toNat x 0x0A), _, rfl, rfl, rfl, rfl⟩

/-- Settles O53: one moves a timer into a register, two move a register into a timer. -/
theorem timerInstructionsMoveTheirTimer : Obligations.TimerInstructionsMoveTheirTimer := by
  unfold Obligations.TimerInstructionsMoveTheirTimer
  intro s x
  exact ⟨encodedAs_of_toNat (encodeXI_misc_toNat x 0x07), encodedAs_of_toNat (encodeXI_misc_toNat x 0x15),
    encodedAs_of_toNat (encodeXI_misc_toNat x 0x18),
    ⟨_, rfl, s.reg_setReg x s.dt, rfl⟩, ⟨_, rfl, rfl, rfl⟩, ⟨_, rfl, rfl, rfl⟩⟩

end Sys2Proof.Machine
end

section
/-!
PROOFS for spec/60_exceptions.md. First fault entry: what a `Step` does to the fault record (R130, R142, R143). Then
the timer tick: one `Tick`, and any number of them in a row (R145).
-/

namespace Sys2Proof.Machine

/-! ## Fault entry (R142, R143) -/

@[simp] theorem State.pollKey_fault (s : State) : s.pollKey.fault = s.fault := by
  unfold State.pollKey
  split <;> rfl

/-- Everything the cycle can do to the fault record: leave it, or, where none is set, raise a fault in the state it
found. -/
theorem cycle_fault_cases {s t : State} (h : s.cycle = .next t) :
    t.fault = s.fault ∨ s.fault.valid = false ∧ ∃ c w, t = s.raise c w := by
  obtain ⟨_, hc⟩ | ⟨_, _, hc⟩ | ⟨hvalid, _, _, hc⟩ | ⟨hvalid, _, _, _, hc⟩ | ⟨hvalid, _, _, i, _, hc⟩ :=
    cycle_cases s <;> rw [hc] at h
  · cases h
    exact .inl rfl
  · cases h
    exact .inl s.pollKey_fault
  · cases h
    exact .inr ⟨hvalid, _, _, rfl⟩
  · cases h
    exact .inr ⟨hvalid, _, _, rfl⟩
  · obtain hraise | hdone := exec_confined h
    · exact .inr ⟨hvalid, hraise⟩
    · exact .inl ((congrArg State.fault hdone).trans (footprint_fault i s t))

/-- Every machine fault has a code from 1 on; code 0 means no fault (R130). -/
theorem Cause.one_le_code_toNat (c : Cause) : 1 ≤ c.code.toNat := by
  cases c <;> decide

/-- Settles O11: presenting the inputs changes no piece of the spec's state, so the fault is raised in the state the
`Step` found. -/
theorem recordedFaultIsPrecise : Obligations.RecordedFaultIsPrecise := by
  unfold Obligations.RecordedFaultIsPrecise
  intro s t keys rnd he hstep
  obtain hkept | ⟨hvalid, c, w, rfl⟩ := cycle_fault_cases (cycle_of_answered_step he hstep)
  · exact .inl hkept
  · exact .inr ⟨rfl, hvalid, rfl, c.one_le_code_toNat, rfl⟩

/-! ## The timer tick (R145) -/

/-- Settles O14: of the core's state only the phase is looked at, so a halted or waiting core ticks like any other. -/
theorem tickDecrementsBothTimersAndNothingElse : Obligations.TickDecrementsBothTimersAndNothingElse := by
  unfold Obligations.TickDecrementsBothTimersAndNothingElse
  intro s he hphase
  exact ⟨s.dropEvent.tick, step_of_tick he hphase, tickTimer_toNat s.dt, tickTimer_toNat s.st, rfl⟩

/-- Settles O15: by induction on the number of ticks; the first one keeps the phase and leaves the others next on the
list. -/
theorem timersReachZeroAfterTheirCountOfTicks : Obligations.TimersReachZeroAfterTheirCountOfTicks := by
  unfold Obligations.TimersReachZeroAfterTheirCountOfTicks
  intro n
  induction n with
  | zero =>
    rintro s _ rfl _
    exact ⟨s, core_run_zero s, rfl, rfl, rfl⟩
  | succ n ih =>
    intro s es hevents hphase
    have hlist : s.events = .tick :: (List.replicate n .tick ++ es) := hevents
    have htick : step s = .next s.dropEvent.tick := step_of_tick (nextEvent_cons hlist) hphase
    obtain ⟨t, hrun, hdt, hst, ht⟩ := ih s.dropEvent.tick es (congrArg List.tail hlist) hphase
    refine ⟨t, (core_run_succ n htick).trans hrun, ?_, ?_, ?_⟩
    · simp [hdt, Nat.sub_sub, Nat.add_comm]
    · simp [hst, Nat.sub_sub, Nat.add_comm]
    · rw [Nat.add_comm n 1, ← Nat.add_assoc]
      exact ht

end Sys2Proof.Machine
end

section
/-!
PROOFS for spec/70_reset_and_hazards.md. First `Reset` with a well-formed configuration (R160). Then the end of a run
(R164): what it says, and that a `Step` there jumps to where it stands (R71).
-/

namespace Sys2Proof.Machine

/-! ## Reset (R160) -/

theorem State.hostReset_of_wellFormed (s : State) {c : Config} (h : c.wellFormed = true) :
    s.hostReset c = .next { State.resetWith c s.param with events := s.events, drawn := s.drawn } :=
  if_pos h

/-- Settles O18: the bound on `font_start` is the one thing `Reset` checks, and of the state it finds it reads the
parameter and the host's list alone. -/
theorem resetRestoresTheResetValuesFromAnyState : Obligations.ResetRestoresTheResetValuesFromAnyState := by
  unfold Obligations.ResetRestoresTheResetValuesFromAnyState
  intro s c he hstart
  have hreset := s.dropEvent.hostReset_of_wellFormed (wellFormed_iff_fontStart_le.mpr hstart)
  exact ⟨_, (step_of_reset he).trans hreset, rfl, rfl, rfl⟩

/-! ## The end of a run (R164) -/

theorem State.atEnd_iff {s : State} :
    s.atEnd = true ↔ s.fault.valid = false ∧ s.awaitingKey = false ∧ s.pc.toNat ≤ 0x0FFE ∧
      ∃ nnn, decode s.fetchWord = .known (.jump nnn) ∧ addrWord nnn = s.pc := by
  simp only [State.atEnd, State.noFault, State.fetchInRange, Bool.and_eq_true, Bool.not_eq_true', decide_eq_true_eq,
    and_assoc]
  refine and_congr_right fun _ => and_congr_right fun _ => and_congr_right fun _ => ?_
  split
  case h_1 nnn hdec => simp [hdec]
  case h_2 hother =>
    refine iff_of_false (by simp) ?_
    rintro ⟨nnn, hdec, _⟩
    exact hother nnn hdec

/-- The inputs, the life cycle and the host's list play no part in the end of a run. -/
@[simp] theorem State.started_atEnd (s : State) (keys : Word) (rnd : Byte) :
    (s.started keys rnd).atEnd = s.atEnd := rfl

/-- A jump to its own address changes nothing (R71). -/
theorem exec_jump_self {s : State} {nnn : Addr} (h : addrWord nnn = s.pc) : exec (.jump nnn) s = .next s := by
  change Host.Outcome.next (s.jumpTo (addrWord nnn)) = _
  rw [h]
  rfl

/-- At the end of a run the cycle runs the self-jump, so the state it finds is the one it answers. -/
theorem cycle_of_atEnd {s : State} (h : s.atEnd = true) : s.cycle = .next s := by
  obtain ⟨hvalid, hwait, hpc, nnn, hdec, hself⟩ := State.atEnd_iff.mp h
  exact (cycle_of_decode_fetchWord hvalid hwait hpc hdec).trans (exec_jump_self hself)

/-- Settles O58: presenting the inputs keeps the end of the run, and the cycle leaves that state as it is. -/
theorem endOfRunRepeatsForEver : Obligations.EndOfRunRepeatsForEver := by
  unfold Obligations.EndOfRunRepeatsForEver
  intro s keys rnd hend hphase he
  have hstarted : (s.started keys rnd).atEnd = true := (s.started_atEnd keys rnd).trans hend
  exact ⟨(step_of_step he hphase).trans (cycle_of_atEnd hstarted), hstarted⟩

end Sys2Proof.Machine
end
